-- ==== Sys2Proof/Word.lean ====
section
/-! DEFINITION. The types of bits and numbers the CHIP-8 core is built from (spec/00_scope.md R5, R7). -/

namespace Sys2Proof

/-- One byte: a general register, a timer, a memory cell, the immediate `kk` (R5: `XLEN` = 8). -/
abbrev Byte := BitVec 8

/-- Sixteen bits: an instruction word, and the storage of `pc`, `I`, `opcode` and a stack slot (R5: `ILEN` = 16). -/
abbrev Word := BitVec 16

/-- A 12-bit address as an instruction carries it, the field `nnn` (spec/30_encoding.md R46). -/
abbrev Addr := BitVec 12

/-- The number of a general register, 0 to 15; all sixteen are legal everywhere (spec/30_encoding.md R59). -/
abbrev Reg := Fin 16

/-- `VF`, the register that receives the flags: number 15 (spec/10_state.md R12). -/
abbrev VF : Reg := 15

end Sys2Proof
end

