-- ==== Sys2Proof/Syntax.lean ====
section
/-! DEFINITION. The instructions: one constructor per row of spec/opcode_table.json, in the table's order, named by the
hexadecimal pattern that is the instruction's primary name (spec/30_encoding.md R57). The operand types are exactly the
ranges of the fields (R46, R59), so a term of `Instr` has no ill-formed value. -/

namespace Sys2Proof

/-- The 34 instructions (spec/90_conflicts.md C1: 34, not 35). -/
inductive Instr where
  /-- `00E0`: clear the screen (spec/44_display.md R105). -/
  | op00E0
  /-- `00EE`: return from subroutine (spec/41_control_flow.md R70). -/
  | op00EE
  /-- `1nnn`: jump (spec/41_control_flow.md R71). -/
  | op1nnn (nnn : Addr)
  /-- `2nnn`: call subroutine (spec/41_control_flow.md R72). -/
  | op2nnn (nnn : Addr)
  /-- `3xkk`: skip if register equals immediate (spec/41_control_flow.md R73). -/
  | op3xkk (x : Reg) (kk : Byte)
  /-- `4xkk`: skip if register differs from immediate (spec/41_control_flow.md R74). -/
  | op4xkk (x : Reg) (kk : Byte)
  /-- `5xy0`: skip if two registers are equal (spec/41_control_flow.md R75). -/
  | op5xy0 (x y : Reg)
  /-- `6xkk`: load immediate (spec/42_load_alu.md R80). -/
  | op6xkk (x : Reg) (kk : Byte)
  /-- `7xkk`: add immediate without flag (spec/42_load_alu.md R81). -/
  | op7xkk (x : Reg) (kk : Byte)
  /-- `8xy0`: copy register (spec/42_load_alu.md R82). -/
  | op8xy0 (x y : Reg)
  /-- `8xy1`: bitwise or (spec/42_load_alu.md R83). -/
  | op8xy1 (x y : Reg)
  /-- `8xy2`: bitwise and (spec/42_load_alu.md R84). -/
  | op8xy2 (x y : Reg)
  /-- `8xy3`: bitwise exclusive or (spec/42_load_alu.md R85). -/
  | op8xy3 (x y : Reg)
  /-- `8xy4`: add with carry flag (spec/42_load_alu.md R86). -/
  | op8xy4 (x y : Reg)
  /-- `8xy5`: subtract `V[y]` from `V[x]` (spec/42_load_alu.md R87). -/
  | op8xy5 (x y : Reg)
  /-- `8xy6`: shift `V[x]` right by one; `y` is decoded and never read (spec/42_load_alu.md R88). -/
  | op8xy6 (x y : Reg)
  /-- `8xy7`: reverse subtract, `V[x]` from `V[y]` (spec/42_load_alu.md R89). -/
  | op8xy7 (x y : Reg)
  /-- `8xyE`: shift `V[x]` left by one; `y` is decoded and never read (spec/42_load_alu.md R90). -/
  | op8xyE (x y : Reg)
  /-- `9xy0`: skip if two registers differ (spec/41_control_flow.md R76). -/
  | op9xy0 (x y : Reg)
  /-- `Annn`: load index immediate (spec/43_index_memory.md R95). -/
  | opAnnn (nnn : Addr)
  /-- `Bnnn`: jump to address plus `V[0]` (spec/41_control_flow.md R77). -/
  | opBnnn (nnn : Addr)
  /-- `Cxkk`: random byte masked (spec/42_load_alu.md R93). -/
  | opCxkk (x : Reg) (kk : Byte)
  /-- `Dxyn`: draw an `n`-row sprite at (`V[x]`, `V[y]`) (spec/44_display.md R106). -/
  | opDxyn (x y : Reg) (n : Fin 16)
  /-- `Ex9E`: skip if the key named by `V[x]` is held (spec/45_keypad_timers.md R110). -/
  | opEx9E (x : Reg)
  /-- `ExA1`: skip if the key named by `V[x]` is not held (spec/45_keypad_timers.md R111). -/
  | opExA1 (x : Reg)
  /-- `Fx07`: read the delay timer (spec/45_keypad_timers.md R112). -/
  | opFx07 (x : Reg)
  /-- `Fx0A`: wait for a key and store its number (spec/45_keypad_timers.md R113). -/
  | opFx0A (x : Reg)
  /-- `Fx15`: set the delay timer (spec/45_keypad_timers.md R114). -/
  | opFx15 (x : Reg)
  /-- `Fx18`: set the sound timer (spec/45_keypad_timers.md R115). -/
  | opFx18 (x : Reg)
  /-- `Fx1E`: add register to index (spec/43_index_memory.md R96). -/
  | opFx1E (x : Reg)
  /-- `Fx29`: point index at a font glyph (spec/43_index_memory.md R97). -/
  | opFx29 (x : Reg)
  /-- `Fx33`: store the three decimal digits of a register (spec/43_index_memory.md R98). -/
  | opFx33 (x : Reg)
  /-- `Fx55`: store registers `V[0]` to `V[x]` (spec/43_index_memory.md R99). -/
  | opFx55 (x : Reg)
  /-- `Fx65`: load registers `V[0]` to `V[x]` (spec/43_index_memory.md R100). -/
  | opFx65 (x : Reg)
  deriving DecidableEq, Repr

end Sys2Proof
end

