-- ==== Sys2Proof/WellFormed.lean ====
section
/-! DEFINITION. When a 16-bit word is an instruction at all, and when it is the canonical encoding of one. Written from
spec/30_encoding.md R54 and R55 by themselves, with numbers and not with the decoder, so that the two can be compared.
A term of `Instr` needs no check: its operand types are the ranges of the fields (R59). -/

namespace Sys2Proof

/-- The first-level index, bits 15:12, as a number. -/
def Word.op (w : Word) : Nat := w.toNat / 4096

/-- The low nibble, bits 3:0, as a number. -/
def Word.low (w : Word) : Nat := w.toNat % 16

/-- The low byte, bits 7:0, as a number. -/
def Word.lowByte (w : Word) : Nat := w.toNat % 256

/-- Family 0 has an instruction for the low nibbles 0 and E only (R50, R54). -/
def family0WellFormed (w : Word) : Bool := w.op != 0x0 || [0x0, 0xE].contains w.low

/-- Family 8 has an instruction for the low nibbles 0 to 7 and E only (R51, R54). -/
def family8WellFormed (w : Word) : Bool := w.op != 0x8 || [0, 1, 2, 3, 4, 5, 6, 7, 0xE].contains w.low

/-- Family E has an instruction for the low nibbles 1 and E only (R52, R54). -/
def familyEWellFormed (w : Word) : Bool := w.op != 0xE || [0x1, 0xE].contains w.low

/-- Family F has an instruction for nine low bytes only (R53, R54). -/
def familyFWellFormed (w : Word) : Bool :=
  w.op != 0xF || [0x07, 0x0A, 0x15, 0x18, 0x1E, 0x29, 0x33, 0x55, 0x65].contains w.lowByte

/-- The word is one of the 34 instructions: it lies in none of the four sets of R54. -/
def Word.wellFormed (w : Word) : Bool :=
  family0WellFormed w && family8WellFormed w && familyEWellFormed w && familyFWellFormed w

/-- The bits the decoder ignores are those of the printed pattern (R55): `00E0`, `00EE`, `5xy0`, `9xy0`, `Ex9E`,
`ExA1`. Every other instruction has no ignored bit that is not an operand field. -/
def Word.canonical (w : Word) : Bool :=
  (w.op != 0x0 || w.toNat == 0x00E0 || w.toNat == 0x00EE) &&
  ((w.op != 0x5 && w.op != 0x9) || w.low == 0) &&
  (w.op != 0xE || w.lowByte == 0x9E || w.lowByte == 0xA1)

end Sys2Proof
end

