-- ==== Sys2Proof/Decode.lean ====
section
/-! DEFINITION. The two-level decoder (spec/30_encoding.md R46 to R55), total on every word and rejecting by the family
that has no instruction for it; after it the encoder of canonical words, and the rows of the opcode map (section 4) that
decoder and encoder are compared with. -/

namespace Sys2Proof

/-! ## Fields (R46) -/

/-- `(opcode & 0xF000) >> 12`, the first-level index. -/
def fieldOp (w : Word) : BitVec 4 := w.extractLsb' 12 4

/-- `x = (opcode & 0x0F00) >> 8`. -/
def fieldX (w : Word) : Reg := (w.extractLsb' 8 4).toFin

/-- `y = (opcode & 0x00F0) >> 4`. -/
def fieldY (w : Word) : Reg := (w.extractLsb' 4 4).toFin

/-- `n = opcode & 0x000F` as a count (the rows of `Dxyn`). -/
def fieldN (w : Word) : Fin 16 := (w.extractLsb' 0 4).toFin

/-- The low nibble as the second-level index of families 0, 8 and E. -/
def fieldSub (w : Word) : BitVec 4 := w.extractLsb' 0 4

/-- `kk = opcode & 0x00FF`, and the second-level index of family F. -/
def fieldKK (w : Word) : Byte := w.extractLsb' 0 8

/-- `nnn = opcode & 0x0FFF`. -/
def fieldNNN (w : Word) : Addr := w.extractLsb' 0 12

/-! ## The decoder -/

/-- Which dispatch level knows no instruction for the word: the four sets of R54. -/
inductive DecodeError where
  /-- `op` = 0 and the low nibble is neither 0 nor E. -/
  | family0
  /-- `op` = 8 and the low nibble is 8 to D or F. -/
  | family8
  /-- `op` = E and the low nibble is neither 1 nor E. -/
  | familyE
  /-- `op` = F and the low byte is none of the nine. -/
  | familyF
  deriving DecidableEq, Repr

/-- Family 0 (R50): "select by low nibble"; bits 11:4 are not decoded. -/
def decodeFamily0 (w : Word) : Except DecodeError Instr :=
  if fieldSub w = 0x0 then .ok .op00E0
  else if fieldSub w = 0xE then .ok .op00EE
  else .error .family0

/-- Family 8 (R51): "select by low nibble". -/
def decodeFamily8 (w : Word) : Except DecodeError Instr :=
  if fieldSub w = 0x0 then .ok (.op8xy0 (fieldX w) (fieldY w))
  else if fieldSub w = 0x1 then .ok (.op8xy1 (fieldX w) (fieldY w))
  else if fieldSub w = 0x2 then .ok (.op8xy2 (fieldX w) (fieldY w))
  else if fieldSub w = 0x3 then .ok (.op8xy3 (fieldX w) (fieldY w))
  else if fieldSub w = 0x4 then .ok (.op8xy4 (fieldX w) (fieldY w))
  else if fieldSub w = 0x5 then .ok (.op8xy5 (fieldX w) (fieldY w))
  else if fieldSub w = 0x6 then .ok (.op8xy6 (fieldX w) (fieldY w))
  else if fieldSub w = 0x7 then .ok (.op8xy7 (fieldX w) (fieldY w))
  else if fieldSub w = 0xE then .ok (.op8xyE (fieldX w) (fieldY w))
  else .error .family8

/-- Family E (R52): "select by low nibble"; bits 7:4 are not decoded. -/
def decodeFamilyE (w : Word) : Except DecodeError Instr :=
  if fieldSub w = 0x1 then .ok (.opExA1 (fieldX w))
  else if fieldSub w = 0xE then .ok (.opEx9E (fieldX w))
  else .error .familyE

/-- Family F (R53): "select by low byte", all eight bits decoded. -/
def decodeFamilyF (w : Word) : Except DecodeError Instr :=
  if fieldKK w = 0x07 then .ok (.opFx07 (fieldX w))
  else if fieldKK w = 0x0A then .ok (.opFx0A (fieldX w))
  else if fieldKK w = 0x15 then .ok (.opFx15 (fieldX w))
  else if fieldKK w = 0x18 then .ok (.opFx18 (fieldX w))
  else if fieldKK w = 0x1E then .ok (.opFx1E (fieldX w))
  else if fieldKK w = 0x29 then .ok (.opFx29 (fieldX w))
  else if fieldKK w = 0x33 then .ok (.opFx33 (fieldX w))
  else if fieldKK w = 0x55 then .ok (.opFx55 (fieldX w))
  else if fieldKK w = 0x65 then .ok (.opFx65 (fieldX w))
  else .error .familyF

/-- First level (R48): "Dispatch selects a handler by the opcode's top nibble". The twelve instructions selected at once
are decoded with mask 0xF000 (R49), so the low nibble of `5xy?` and `9xy?` is ignored (the spec's D2, log 9). Sixteen
values of `op`, sixteen outcomes: the last one is 0xF. -/
def decode (w : Word) : Except DecodeError Instr :=
  if fieldOp w = 0x0 then decodeFamily0 w
  else if fieldOp w = 0x1 then .ok (.op1nnn (fieldNNN w))
  else if fieldOp w = 0x2 then .ok (.op2nnn (fieldNNN w))
  else if fieldOp w = 0x3 then .ok (.op3xkk (fieldX w) (fieldKK w))
  else if fieldOp w = 0x4 then .ok (.op4xkk (fieldX w) (fieldKK w))
  else if fieldOp w = 0x5 then .ok (.op5xy0 (fieldX w) (fieldY w))
  else if fieldOp w = 0x6 then .ok (.op6xkk (fieldX w) (fieldKK w))
  else if fieldOp w = 0x7 then .ok (.op7xkk (fieldX w) (fieldKK w))
  else if fieldOp w = 0x8 then decodeFamily8 w
  else if fieldOp w = 0x9 then .ok (.op9xy0 (fieldX w) (fieldY w))
  else if fieldOp w = 0xA then .ok (.opAnnn (fieldNNN w))
  else if fieldOp w = 0xB then .ok (.opBnnn (fieldNNN w))
  else if fieldOp w = 0xC then .ok (.opCxkk (fieldX w) (fieldKK w))
  else if fieldOp w = 0xD then .ok (.opDxyn (fieldX w) (fieldY w) (fieldN w))
  else if fieldOp w = 0xE then decodeFamilyE w
  else decodeFamilyF w

/-- The word stored at two consecutive addresses: the byte at the lower one holds bits 15:8 (R45, spec/20_memory.md
R32). -/
def wordOfBytes (lower upper : Byte) : Word := lower ++ upper

/-- The two bytes of a word in the order they lie in memory. -/
def bytesOfWord (w : Word) : Byte × Byte := (w.extractLsb' 8 8, w.extractLsb' 0 8)

/-- The decoder on bytes as they lie in memory; with fewer than two there is no instruction. The bytes after the
instruction's two are given back. -/
def decodeBytes : List Byte → Option (Instr × List Byte)
  | lower :: upper :: rest =>
    match decode (wordOfBytes lower upper) with
    | .ok i => some (i, rest)
    | .error _ => none
  | _ => none

/-- The instruction word that the table's `nbits` low bits `w` stand for, every bit above them 0. Every instruction is
one 16-bit word (R45), so the table's numbering of the bits is the word's own. -/
def tableWord (nbits w : Nat) : Word := BitVec.ofNat 16 (w % 2 ^ nbits)

/-- The instruction the decoder reads from an instruction whose bits are `w`, numbered as spec/opcode_table.json numbers
them. -/
def decodeTableWord (nbits w : Nat) : Option Instr :=
  let b := bytesOfWord (tableWord nbits w)
  (decodeBytes [b.1, b.2]).map Prod.fst

/-! ## The encoder: the canonical words (R47, R55) -/

/-- A register number or a count as the four bits of its field. -/
def nibble (r : Fin 16) : BitVec 4 := BitVec.ofFin r

/-- Format NNN. -/
def encodeNNN (op : BitVec 4) (nnn : Addr) : Word := op ++ nnn

/-- Formats XKK and XS: the low byte is an immediate or the sub-opcode. -/
def encodeXKK (op : BitVec 4) (x : Reg) (kk : Byte) : Word := op ++ nibble x ++ kk

/-- Format XYN: the low nibble is a count or the sub-opcode. -/
def encodeXYN (op : BitVec 4) (x y : Reg) (n : BitVec 4) : Word := op ++ nibble x ++ nibble y ++ n

/-- The canonical word of an instruction, the one an assembler emits (R55). -/
def encode : Instr → Word
  | .op00E0 => 0x00E0
  | .op00EE => 0x00EE
  | .op1nnn nnn => encodeNNN 0x1 nnn
  | .op2nnn nnn => encodeNNN 0x2 nnn
  | .op3xkk x kk => encodeXKK 0x3 x kk
  | .op4xkk x kk => encodeXKK 0x4 x kk
  | .op5xy0 x y => encodeXYN 0x5 x y 0x0
  | .op6xkk x kk => encodeXKK 0x6 x kk
  | .op7xkk x kk => encodeXKK 0x7 x kk
  | .op8xy0 x y => encodeXYN 0x8 x y 0x0
  | .op8xy1 x y => encodeXYN 0x8 x y 0x1
  | .op8xy2 x y => encodeXYN 0x8 x y 0x2
  | .op8xy3 x y => encodeXYN 0x8 x y 0x3
  | .op8xy4 x y => encodeXYN 0x8 x y 0x4
  | .op8xy5 x y => encodeXYN 0x8 x y 0x5
  | .op8xy6 x y => encodeXYN 0x8 x y 0x6
  | .op8xy7 x y => encodeXYN 0x8 x y 0x7
  | .op8xyE x y => encodeXYN 0x8 x y 0xE
  | .op9xy0 x y => encodeXYN 0x9 x y 0x0
  | .opAnnn nnn => encodeNNN 0xA nnn
  | .opBnnn nnn => encodeNNN 0xB nnn
  | .opCxkk x kk => encodeXKK 0xC x kk
  | .opDxyn x y n => encodeXYN 0xD x y (nibble n)
  | .opEx9E x => encodeXKK 0xE x 0x9E
  | .opExA1 x => encodeXKK 0xE x 0xA1
  | .opFx07 x => encodeXKK 0xF x 0x07
  | .opFx0A x => encodeXKK 0xF x 0x0A
  | .opFx15 x => encodeXKK 0xF x 0x15
  | .opFx18 x => encodeXKK 0xF x 0x18
  | .opFx1E x => encodeXKK 0xF x 0x1E
  | .opFx29 x => encodeXKK 0xF x 0x29
  | .opFx33 x => encodeXKK 0xF x 0x33
  | .opFx55 x => encodeXKK 0xF x 0x55
  | .opFx65 x => encodeXKK 0xF x 0x65

/-! ## The opcode map (section 4), as data -/

/-- One row of spec/opcode_table.json: a word `w` is the instruction when `w & mask = pattern`, and its canonical
encoding when moreover `w & canonicalMask = canonicalPattern`. -/
structure OpcodeRow where
  mnemonic : String
  mask : Word
  pattern : Word
  canonicalMask : Word
  canonicalPattern : Word
  deriving DecidableEq, Repr

/-- The word belongs to the row. -/
def OpcodeRow.accepts (r : OpcodeRow) (w : Word) : Bool := w &&& r.mask == r.pattern

/-- The word is the row's encoding as the source prints it. -/
def OpcodeRow.prints (r : OpcodeRow) (w : Word) : Bool := w &&& r.canonicalMask == r.canonicalPattern

/-- The row of an instruction. -/
def rowOf : Instr → OpcodeRow
  | .op00E0 => ⟨"00E0", 0xF00F, 0x0000, 0xFFFF, 0x00E0⟩
  | .op00EE => ⟨"00EE", 0xF00F, 0x000E, 0xFFFF, 0x00EE⟩
  | .op1nnn _ => ⟨"1nnn", 0xF000, 0x1000, 0xF000, 0x1000⟩
  | .op2nnn _ => ⟨"2nnn", 0xF000, 0x2000, 0xF000, 0x2000⟩
  | .op3xkk _ _ => ⟨"3xkk", 0xF000, 0x3000, 0xF000, 0x3000⟩
  | .op4xkk _ _ => ⟨"4xkk", 0xF000, 0x4000, 0xF000, 0x4000⟩
  | .op5xy0 _ _ => ⟨"5xy0", 0xF000, 0x5000, 0xF00F, 0x5000⟩
  | .op6xkk _ _ => ⟨"6xkk", 0xF000, 0x6000, 0xF000, 0x6000⟩
  | .op7xkk _ _ => ⟨"7xkk", 0xF000, 0x7000, 0xF000, 0x7000⟩
  | .op8xy0 _ _ => ⟨"8xy0", 0xF00F, 0x8000, 0xF00F, 0x8000⟩
  | .op8xy1 _ _ => ⟨"8xy1", 0xF00F, 0x8001, 0xF00F, 0x8001⟩
  | .op8xy2 _ _ => ⟨"8xy2", 0xF00F, 0x8002, 0xF00F, 0x8002⟩
  | .op8xy3 _ _ => ⟨"8xy3", 0xF00F, 0x8003, 0xF00F, 0x8003⟩
  | .op8xy4 _ _ => ⟨"8xy4", 0xF00F, 0x8004, 0xF00F, 0x8004⟩
  | .op8xy5 _ _ => ⟨"8xy5", 0xF00F, 0x8005, 0xF00F, 0x8005⟩
  | .op8xy6 _ _ => ⟨"8xy6", 0xF00F, 0x8006, 0xF00F, 0x8006⟩
  | .op8xy7 _ _ => ⟨"8xy7", 0xF00F, 0x8007, 0xF00F, 0x8007⟩
  | .op8xyE _ _ => ⟨"8xyE", 0xF00F, 0x800E, 0xF00F, 0x800E⟩
  | .op9xy0 _ _ => ⟨"9xy0", 0xF000, 0x9000, 0xF00F, 0x9000⟩
  | .opAnnn _ => ⟨"Annn", 0xF000, 0xA000, 0xF000, 0xA000⟩
  | .opBnnn _ => ⟨"Bnnn", 0xF000, 0xB000, 0xF000, 0xB000⟩
  | .opCxkk _ _ => ⟨"Cxkk", 0xF000, 0xC000, 0xF000, 0xC000⟩
  | .opDxyn _ _ _ => ⟨"Dxyn", 0xF000, 0xD000, 0xF000, 0xD000⟩
  | .opEx9E _ => ⟨"Ex9E", 0xF00F, 0xE00E, 0xF0FF, 0xE09E⟩
  | .opExA1 _ => ⟨"ExA1", 0xF00F, 0xE001, 0xF0FF, 0xE0A1⟩
  | .opFx07 _ => ⟨"Fx07", 0xF0FF, 0xF007, 0xF0FF, 0xF007⟩
  | .opFx0A _ => ⟨"Fx0A", 0xF0FF, 0xF00A, 0xF0FF, 0xF00A⟩
  | .opFx15 _ => ⟨"Fx15", 0xF0FF, 0xF015, 0xF0FF, 0xF015⟩
  | .opFx18 _ => ⟨"Fx18", 0xF0FF, 0xF018, 0xF0FF, 0xF018⟩
  | .opFx1E _ => ⟨"Fx1E", 0xF0FF, 0xF01E, 0xF0FF, 0xF01E⟩
  | .opFx29 _ => ⟨"Fx29", 0xF0FF, 0xF029, 0xF0FF, 0xF029⟩
  | .opFx33 _ => ⟨"Fx33", 0xF0FF, 0xF033, 0xF0FF, 0xF033⟩
  | .opFx55 _ => ⟨"Fx55", 0xF0FF, 0xF055, 0xF0FF, 0xF055⟩
  | .opFx65 _ => ⟨"Fx65", 0xF0FF, 0xF065, 0xF0FF, 0xF065⟩

/-- All 34 rows, in the table's order; the operands chosen here do not matter to a row. -/
def opcodeTable : List OpcodeRow :=
  [rowOf .op00E0, rowOf .op00EE, rowOf (.op1nnn 0), rowOf (.op2nnn 0), rowOf (.op3xkk 0 0), rowOf (.op4xkk 0 0), rowOf (.op5xy0 0 0), rowOf (.op6xkk 0 0), rowOf (.op7xkk 0 0)] ++
  [rowOf (.op8xy0 0 0), rowOf (.op8xy1 0 0), rowOf (.op8xy2 0 0), rowOf (.op8xy3 0 0), rowOf (.op8xy4 0 0), rowOf (.op8xy5 0 0), rowOf (.op8xy6 0 0), rowOf (.op8xy7 0 0), rowOf (.op8xyE 0 0)] ++
  [rowOf (.op9xy0 0 0), rowOf (.opAnnn 0), rowOf (.opBnnn 0), rowOf (.opCxkk 0 0), rowOf (.opDxyn 0 0 0), rowOf (.opEx9E 0), rowOf (.opExA1 0), rowOf (.opFx07 0)] ++
  [rowOf (.opFx0A 0), rowOf (.opFx15 0), rowOf (.opFx18 0), rowOf (.opFx1E 0), rowOf (.opFx29 0), rowOf (.opFx33 0), rowOf (.opFx55 0), rowOf (.opFx65 0)]

end Sys2Proof
end

