-- ==== Sys2Proof/Config.lean ====
section
/-! DEFINITION. What the spec leaves open to the outside and no rule fixes: the two inputs of a cycle
(spec/00_scope.md R6, `keys(t)` and `rand(t)`), as free values. They have no body, so no proof can see what they are and
a claim about one run holds for every keypad and every random source. A claim that compares two runs must schedule the inputs
of both (log 26). -/

namespace Sys2Proof

/-- `keys(t)`: the keypad level sampled by cycle `t`, bit `k` true when key `k` is held (spec/10_state.md R18, the
spec's D16). A free value, used where `State.inputs` schedules nothing (log 1). -/
opaque Config.keys : Nat → BitVec 16

/-- `rand(t)`: the byte the random source supplies to cycle `t` (spec/10_state.md R23, the spec's D15). A free value,
used where `State.inputs` schedules nothing (log 2). -/
opaque Config.rand : Nat → Byte

end Sys2Proof
end

