-- ==== Sys2Proof/Machine/State.lean ====
section
/-! DEFINITION. The architectural state (spec/10_state.md), as plain data, the two ways a step could stop, and the state
after reset (spec/70_reset_and_hazards.md R140, R141). -/

namespace Sys2Proof.Machine

/-- The display buffer: `display[row][col]`, 32 rows of 64 cells, each on or off (R19). -/
abbrev Display := Vector (Vector Bool 64) 32

/-- Memory: the bytes that differ from their reset content, by strictly rising address (`Memory.wf`). -/
abbrev Memory := List Host.Cell

/-- The inputs of one cycle (spec/40_cycle.md R66): the keypad level, bit `k` true when key `k` is held (R18), and the
random byte (R23). -/
structure CycleInput where
  keys : BitVec 16
  rand : Byte
  deriving DecidableEq, Repr

/-- The machine state: of one core with one thread of control, so one `pc`, one `sp`, no core identifier and nothing shared
(spec/00_scope.md R9, spec/60_exceptions.md R136). The fields down to `ERR` are the spec's, under the spec's names; the
last two are the model's own and stand for the inputs, which the spec keeps outside the state (log 1, 2, 3). -/
structure State where
  /-- General registers; `V[15]` is `VF` (R10, R12). -/
  V : Vector Byte 16
  /-- Program counter, 0 to 0xFFF in 16 bits (R13). -/
  pc : Word
  /-- Index register, 0 to 0xFFF in 16 bits (R14). -/
  I : Word
  /-- Return addresses (R15). -/
  stack : Vector Word 16
  /-- How many return addresses the stack holds, 0 to 16 (R16). -/
  sp : Fin 17
  /-- Delay timer (R17). -/
  DT : Byte
  /-- Sound timer (R17). -/
  ST : Byte
  /-- Display buffer (R19). -/
  display : Display
  /-- The most recently fetched instruction word (R20). -/
  opcode : Word
  /-- Memory, 4096 bytes (R21). -/
  mem : Memory
  /-- Sticky error bits: `DEC` 0, `SOVF` 1, `SUNF` 2 (R22). -/
  ERR : BitVec 3
  /-- Model's own: the inputs scheduled for the coming cycles, the current cycle's first. -/
  inputs : List CycleInput
  /-- Model's own: the number of the current cycle, which alone picks the free inputs where none is scheduled (log 26). -/
  cycle : Nat
  deriving DecidableEq, Repr

/-- Why a step could stop with a fault: never. Every state has a next state (spec/40_cycle.md R60,
spec/70_reset_and_hazards.md R153), and the three error events set a bit of `ERR` instead (spec/60_exceptions.md R120 to
R123). The type is closed and has no constructor, so no meaning can fault (log 19). -/
inductive Fault where
  deriving DecidableEq, Repr

/-- Why a step could be refused. -/
inductive Refusal where
  /-- Raised by an arm of `exec` for an instruction that has no meaning yet; safe, since a refused run proves nothing.
  No arm raises it: all 34 instructions have their meaning. -/
  | notModelled (mnemonic : String)
  deriving DecidableEq, Repr

/-- The machine right after reset, with no program image loaded (R140, R141): `pc` at 0x200, everything else zero, off or
empty, memory at its reset content, which lists nothing (`Memory.initial`). No input is scheduled (log 3). -/
def State.reset : State where
  V := Vector.replicate 16 0
  pc := 0x200
  I := 0
  stack := Vector.replicate 16 0
  sp := 0
  DT := 0
  ST := 0
  display := Vector.replicate 32 (Vector.replicate 64 false)
  opcode := 0
  mem := []
  ERR := 0
  inputs := []
  cycle := 0

end Sys2Proof.Machine
end

