-- ==== Sys2Proof/Machine/Memory.lean ====
section
/-! DEFINITION. Memory as a canonical list of cells: what an unlisted address reads as, reading, writing, and the form the
list keeps (spec/20_memory.md R30, R31, R35; spec/70_reset_and_hazards.md R141, R142). -/

namespace Sys2Proof.Machine

/-- `FONT_ROM`, the glyphs at 0x050 to 0x09F, five bytes a digit: the default that spec/93_implementation_defined.md GK1
gives for the parameter of spec/00_scope.md R6. PRESUMED (the spec marks the table as general knowledge), unsafe (log 5);
`State.loadFont` places any other. -/
def fontRom : List Byte :=
  [0xF0, 0x90, 0x90, 0x90, 0xF0] ++ [0x20, 0x60, 0x20, 0x20, 0x70] ++
  [0xF0, 0x10, 0xF0, 0x80, 0xF0] ++ [0xF0, 0x10, 0xF0, 0x10, 0xF0] ++
  [0x90, 0x90, 0xF0, 0x10, 0x10] ++ [0xF0, 0x80, 0xF0, 0x10, 0xF0] ++
  [0xF0, 0x80, 0xF0, 0x90, 0xF0] ++ [0xF0, 0x10, 0x20, 0x40, 0x40] ++
  [0xF0, 0x90, 0xF0, 0x90, 0xF0] ++ [0xF0, 0x90, 0xF0, 0x10, 0xF0] ++
  [0xF0, 0x90, 0xF0, 0x90, 0x90] ++ [0xE0, 0x90, 0xE0, 0x90, 0xE0] ++
  [0xF0, 0x80, 0x80, 0x80, 0xF0] ++ [0xE0, 0x90, 0x90, 0x90, 0xE0] ++
  [0xF0, 0x80, 0xF0, 0x80, 0xF0] ++ [0xF0, 0x80, 0xF0, 0x80, 0x80]

/-- What an unlisted address reads as, its reset content: the font at 0x050 to 0x09F, 0 elsewhere (R141; the zero is the
spec's D12, log 6). -/
def Memory.initial (a : Nat) : Byte :=
  if 0x050 ≤ a ∧ a ≤ 0x09F then fontRom.getD (a - 0x050) 0 else 0

/-- The byte at an address. -/
def Memory.read : Memory → Nat → Byte
  | [], a => Memory.initial a
  | (b, v) :: m, a => if b = a then v else Memory.read m a

/-- Put a cell in front, unless it holds what its address reads as unlisted. -/
def Memory.cons (a : Nat) (v : Byte) (m : Memory) : Memory :=
  if v = Memory.initial a then m else (a, v) :: m

/-- Write one byte, keeping the list sorted and without cells that hold their reset content. -/
def Memory.write : Memory → Nat → Byte → Memory
  | [], a, v => Memory.cons a v []
  | (b, w) :: m, a, v =>
    if a < b then Memory.cons a v ((b, w) :: m)
    else if a = b then Memory.cons a v m
    else (b, w) :: Memory.write m a v

/-- From address `lo` up: strictly rising, inside the 4096 bytes, no cell at its reset content. -/
def Memory.wfFrom : Nat → Memory → Bool
  | _, [] => true
  | lo, (a, v) :: m => decide (lo ≤ a ∧ a < 4096 ∧ v ≠ Memory.initial a) && Memory.wfFrom (a + 1) m

/-- The canonical form of memory: two memories that read alike everywhere are equal lists. -/
def Memory.wf (m : Memory) : Bool := Memory.wfFrom 0 m

end Sys2Proof.Machine
end

