-- ==== Sys2Proof/Machine/Ops.lean ====
section
/-! DEFINITION. The named operations over state that every meaning is written with: address reduction and memory access
(spec/00_scope.md R8), registers, the call stack, error events, and the phases of a cycle around the execute phase
(spec/40_cycle.md R61, R62, R65). -/

namespace Sys2Proof.Machine

/-! ## Addresses and memory (R8; spec/20_memory.md R36) -/

/-- `A12(a) = a mod 4096`: every address is reduced to 12 bits (the spec's D3, log 8). -/
def A12 (a : Nat) : Nat := a % 4096

/-- `MemRead(a, 1)`. -/
def readByte (s : State) (a : Nat) : Byte := s.mem.read (A12 a)

/-- `MemRead(a, 2)`, big-endian; used by the fetch only. -/
def readWord (s : State) (a : Nat) : Word := readByte s a ++ readByte s (a + 1)

/-- `MemWrite(a, 1, v)`. -/
def writeByte (s : State) (a : Nat) (v : Byte) : State := { s with mem := s.mem.write (A12 a) v }

/-! ## Registers -/

/-- `pc <- t`: the program counter takes the value `A12(t)`. -/
def setPC (s : State) (t : Nat) : State := { s with pc := BitVec.ofNat 16 (A12 t) }

/-- `I <- t`: the index register takes the value `A12(t)`. -/
def setI (s : State) (t : Nat) : State := { s with I := BitVec.ofNat 16 (A12 t) }

/-- `V[x]`. -/
def reg (s : State) (x : Reg) : Byte := s.V[x]

/-- `V[x] <- v`. -/
def setReg (s : State) (x : Reg) (v : Byte) : State := { s with V := s.V.set x v }

/-- `VF <- flag`: as a flag `VF` only ever receives 0 or 1 (spec/10_state.md R12). -/
def setFlag (s : State) (flag : Bool) : State := setReg s VF (if flag then 1 else 0)

/-- `DT <- v`. -/
def setDT (s : State) (v : Byte) : State := { s with DT := v }

/-- `ST <- v`. -/
def setST (s : State) (v : Byte) : State := { s with ST := v }

/-- The display buffer takes a new content. -/
def setDisplay (s : State) (d : Display) : State := { s with display := d }

/-! ## Changes of `pc` relative to its post-fetch value (spec/41_control_flow.md R79, spec/45_keypad_timers.md R113) -/

/-- `if c then pc <- pc + 2`. -/
def skipIf (s : State) (c : Bool) : State := if c then setPC s (s.pc.toNat + 2) else s

/-- `pc <- pc - 2`: the 16-bit difference reduced modulo 4096, which divides 65536. -/
def rewind (s : State) : State := setPC s (s.pc - 2).toNat

/-! ## The call stack (spec/10_state.md R15, R16) -/

/-- `stack[sp] <- a; sp <- sp + 1`, where there is a free slot. -/
def push (s : State) (a : Word) : Option State :=
  if h : s.sp.val < 16 then
    some { s with stack := s.stack.set s.sp.val a, sp := ⟨s.sp.val + 1, by omega⟩ }
  else none

/-- `sp <- sp - 1`, and the slot the new `sp` indexes, where the stack is not empty; the slot keeps its value. -/
def pop (s : State) : Option (Word × State) :=
  if h : 0 < s.sp.val then
    some (s.stack[s.sp.val - 1]'(by omega), { s with sp := ⟨s.sp.val - 1, by omega⟩ })
  else none

/-! ## Error events (spec/60_exceptions.md R120, R125): the machine's only exceptions, without entry and without return -/

/-- The three events of the core. -/
inductive ErrorEvent where
  /-- `ERR.DEC`: the word is no instruction (R121). -/
  | dec
  /-- `ERR.SOVF`: a `2nnn` with `sp` = 16 (R122). -/
  | sovf
  /-- `ERR.SUNF`: a `00EE` with `sp` = 0 (R123). -/
  | sunf
  deriving DecidableEq, Repr

/-- The event's bit of `ERR` (spec/10_state.md R22). -/
def errorBit : ErrorEvent → Nat
  | .dec => 0
  | .sovf => 1
  | .sunf => 2

/-- `raise E`: `ERR.E <- 1`, and nothing else: no control transfer, nothing saved (R125). There is no return (R126). -/
def raise (e : ErrorEvent) (s : State) : State := { s with ERR := s.ERR ||| (1#3 <<< errorBit e) }

/-! ## The inputs of the cycle (spec/40_cycle.md R66) -/

/-- `keys(t)`: what is scheduled for this cycle, or a free value (log 1). DESIGN CHOICE, unsafe between two runs: the free
value is a function of the cycle's number alone, so two runs with nothing scheduled see the same level in the same cycle,
which the spec does not say (log 26). -/
def keys (s : State) : BitVec 16 :=
  match s.inputs with
  | i :: _ => i.keys
  | [] => Config.keys s.cycle

/-- `rand(t)`: what is scheduled for this cycle, or a free value (log 2). DESIGN CHOICE, unsafe between two runs: the free
value is a function of the cycle's number alone, so two runs with nothing scheduled see the same byte in the same cycle,
which spec/91_not_in_source.md N23 says not to assume (log 26). -/
def rand (s : State) : Byte :=
  match s.inputs with
  | i :: _ => i.rand
  | [] => Config.rand s.cycle

/-! ## The phases around the execute phase -/

/-- Fetch and `pc` advance (R61, R62): `opcode <- MemRead(pc, 2)`, then `pc <- pc + 2`. -/
def fetch (s : State) : State := setPC { s with opcode := readWord s s.pc.toNat } (s.pc.toNat + 2)

/-- The effect of a word that is no instruction, in place of a handler (spec/60_exceptions.md R121). -/
def decodeError (s : State) : State := raise .dec s

/-- One decrement with floor 0. -/
def countDown (t : Byte) : Byte := if t = 0 then 0 else t - 1

/-- Tick (R65): both timers count down once, on the values the handler left. -/
def tick (s : State) : State := { s with DT := countDown s.DT, ST := countDown s.ST }

/-- The cycle is over: the next one has inputs of its own. -/
def nextInput (s : State) : State := { s with inputs := s.inputs.tail, cycle := s.cycle + 1 }

end Sys2Proof.Machine
end

