-- ==== Sys2Proof/Machine/Flags.lean ====
section
/-! DEFINITION. The flag computations (spec/42_load_alu.md R91) and the order in which flag and result are written
(spec/40_cycle.md R64). The collision flag is computed with the drawing, in Machine/Display.lean. -/

namespace Sys2Proof.Machine

/-- Carry out of bit 7: `a + b > 255` (R86). -/
def carry (a b : Byte) : Bool := decide (a.toNat + b.toNat > 255)

/-- The minuend is strictly greater than the subtrahend (R87, R89; spec/90_conflicts.md C11). -/
def greater (minuend subtrahend : Byte) : Bool := decide (minuend.toNat > subtrahend.toNat)

/-- Bit 0, shifted out to the right (R88). -/
def bit0 (a : Byte) : Bool := a.getLsbD 0

/-- Bit 7, shifted out to the left (R90). -/
def bit7 (a : Byte) : Bool := a.getLsbD 7

/-- The two writes of a flag-writing instruction: `VF` first, `V[x]` last, so with `x` = 15 the result stays and the flag
is lost (R64 (b), R92). Flag and result are computed by the caller from the state before both (R64 (a); log 10). -/
def writeFlagThenResult (s : State) (flag : Bool) (x : Reg) (result : Byte) : State :=
  setReg (setFlag s flag) x result

end Sys2Proof.Machine
end

