-- ==== Sys2Proof/Machine/Alu.lean ====
section
/-! DEFINITION. Register load, arithmetic, logic, shift and random instructions 6xkk, 7xkk, 8xy0 to 8xy7, 8xyE, Cxkk
(spec/42_load_alu.md). Every result is reduced modulo 256 (R91), which is what `BitVec 8` addition, subtraction and shift
do. -/

namespace Sys2Proof.Machine

/-- `6xkk` (R80): `V[x] <- kk`. -/
def exec6xkk (x : Reg) (kk : Byte) (s : State) : Host.Outcome State Fault Refusal :=
  .next (setReg s x kk)

/-- `7xkk` (R81): `V[x] <- (a + kk) mod 256`, no flag. -/
def exec7xkk (x : Reg) (kk : Byte) (s : State) : Host.Outcome State Fault Refusal :=
  .next (setReg s x (reg s x + kk))

/-- `8xy0` (R82): `V[x] <- b`. -/
def exec8xy0 (x y : Reg) (s : State) : Host.Outcome State Fault Refusal :=
  .next (setReg s x (reg s y))

/-- `8xy1` (R83): `V[x] <- a | b`, no flag. -/
def exec8xy1 (x y : Reg) (s : State) : Host.Outcome State Fault Refusal :=
  .next (setReg s x (reg s x ||| reg s y))

/-- `8xy2` (R84): `V[x] <- a & b`, no flag. -/
def exec8xy2 (x y : Reg) (s : State) : Host.Outcome State Fault Refusal :=
  .next (setReg s x (reg s x &&& reg s y))

/-- `8xy3` (R85): `V[x] <- a ^ b`, no flag. -/
def exec8xy3 (x y : Reg) (s : State) : Host.Outcome State Fault Refusal :=
  .next (setReg s x (reg s x ^^^ reg s y))

/-- `8xy4` (R86): `VF <- carry; V[x] <- (a + b) mod 256`. -/
def exec8xy4 (x y : Reg) (s : State) : Host.Outcome State Fault Refusal :=
  .next (writeFlagThenResult s (carry (reg s x) (reg s y)) x (reg s x + reg s y))

/-- `8xy5` (R87): `VF <- a > b; V[x] <- (a - b) mod 256`. -/
def exec8xy5 (x y : Reg) (s : State) : Host.Outcome State Fault Refusal :=
  .next (writeFlagThenResult s (greater (reg s x) (reg s y)) x (reg s x - reg s y))

/-- `8xy6` (R88): `VF <- a[0]; V[x] <- a >> 1`; `V[y]` is not read. -/
def exec8xy6 (x _y : Reg) (s : State) : Host.Outcome State Fault Refusal :=
  .next (writeFlagThenResult s (bit0 (reg s x)) x (reg s x >>> 1))

/-- `8xy7` (R89): `VF <- b > a; V[x] <- (b - a) mod 256`. -/
def exec8xy7 (x y : Reg) (s : State) : Host.Outcome State Fault Refusal :=
  .next (writeFlagThenResult s (greater (reg s y) (reg s x)) x (reg s y - reg s x))

/-- `8xyE` (R90): `VF <- a[7]; V[x] <- (a << 1) mod 256`; `V[y]` is not read. -/
def exec8xyE (x _y : Reg) (s : State) : Host.Outcome State Fault Refusal :=
  .next (writeFlagThenResult s (bit7 (reg s x)) x (reg s x <<< 1))

/-- `Cxkk` (R93): `V[x] <- rand(t) & kk`. -/
def execCxkk (x : Reg) (kk : Byte) (s : State) : Host.Outcome State Fault Refusal :=
  .next (setReg s x (rand s &&& kk))

end Sys2Proof.Machine
end

