-- ==== Sys2Proof/Machine/Operands.lean ====
section
/-! DEFINITION. The operand forms beside plain registers and immediates: the bytes reached through `I`
(spec/43_index_memory.md R101), the register of a block, decimal digits (R98), glyph addresses (R97), keys
(spec/45_keypad_timers.md R110, R113). -/

namespace Sys2Proof.Machine

/-- The effective address of the `i`-th byte of an operation through `I`: `A12(I + i)` (R101). -/
def effectiveAddress (s : State) (i : Nat) : Nat := A12 (s.I.toNat + i)

/-- Register number `i` of a block transfer, `i` at most 15 (R99, R100). -/
def blockReg (i : Nat) : Reg := Fin.ofNat 16 i

/-- `v div 100`. -/
def hundreds (v : Byte) : Byte := BitVec.ofNat 8 (v.toNat / 100)

/-- `(v div 10) mod 10`. -/
def tens (v : Byte) : Byte := BitVec.ofNat 8 (v.toNat / 10 % 10)

/-- `v mod 10`. -/
def ones (v : Byte) : Byte := BitVec.ofNat 8 (v.toNat % 10)

/-- The address of the glyph of `v`: `0x050 + 5 * v`, the whole byte (R97). -/
def glyphAddress (v : Byte) : Nat := 0x050 + 5 * v.toNat

/-- `KeyHeld(k)`: bit `k mod 16` of the keypad level of this cycle (spec/00_scope.md R8; the spec's D10, log 15). -/
def keyHeld (s : State) (k : Nat) : Bool := (keys s).getLsbD (k % 16)

/-- The least key held, if any is (R113; the spec's D9, log 14). -/
def leastKey (s : State) : Option (Fin 16) := (List.finRange 16).find? fun k => keyHeld s k.val

end Sys2Proof.Machine
end

