-- ==== Sys2Proof/Machine/Control.lean ====
section
/-! DEFINITION. The control transfers 00EE, 1nnn, 2nnn, 3xkk, 4xkk, 5xy0, 9xy0, Bnnn (spec/41_control_flow.md). `s` is the
state after the fetch phase, so `pc` is the post-fetch value (spec/40_cycle.md R62). -/

namespace Sys2Proof.Machine

/-- `00EE` (R70): `sp <- sp - 1; pc <- stack[sp]`; on an empty stack `SUNF` and nothing else
(spec/60_exceptions.md R123; the spec's D6, log 12). -/
def exec00EE (s : State) : Host.Outcome State Fault Refusal :=
  .next (match pop s with
    | some (a, s1) => setPC s1 a.toNat
    | none => raise .sunf s)

/-- `1nnn` (R71): `pc <- nnn`. -/
def exec1nnn (nnn : Addr) (s : State) : Host.Outcome State Fault Refusal :=
  .next (setPC s nnn.toNat)

/-- `2nnn` (R72): `stack[sp] <- pc; sp <- sp + 1; pc <- nnn`; on a full stack `SOVF` and nothing else
(spec/60_exceptions.md R122; the spec's D5, log 11). -/
def exec2nnn (nnn : Addr) (s : State) : Host.Outcome State Fault Refusal :=
  .next (match push s s.pc with
    | some s1 => setPC s1 nnn.toNat
    | none => raise .sovf s)

/-- `3xkk` (R73): skip if `V[x] = kk`. -/
def exec3xkk (x : Reg) (kk : Byte) (s : State) : Host.Outcome State Fault Refusal :=
  .next (skipIf s (reg s x == kk))

/-- `4xkk` (R74): skip if `V[x] != kk`. -/
def exec4xkk (x : Reg) (kk : Byte) (s : State) : Host.Outcome State Fault Refusal :=
  .next (skipIf s (reg s x != kk))

/-- `5xy0` (R75): skip if `V[x] = V[y]`. -/
def exec5xy0 (x y : Reg) (s : State) : Host.Outcome State Fault Refusal :=
  .next (skipIf s (reg s x == reg s y))

/-- `9xy0` (R76): skip if `V[x] != V[y]`. -/
def exec9xy0 (x y : Reg) (s : State) : Host.Outcome State Fault Refusal :=
  .next (skipIf s (reg s x != reg s y))

/-- `Bnnn` (R77): `pc <- (V[0] + nnn) mod 4096`, always register 0. -/
def execBnnn (nnn : Addr) (s : State) : Host.Outcome State Fault Refusal :=
  .next (setPC s ((reg s 0).toNat + nnn.toNat))

end Sys2Proof.Machine
end

