-- ==== Sys2Proof/Machine/Display.lean ====
section
/-! DEFINITION. The display instructions 00E0 and Dxyn (spec/44_display.md), the sprite drawn by the loop the source
writes: rows outside, bit columns inside, each pixel wrapped by itself. -/

namespace Sys2Proof.Machine

/-- `display[row mod 32][col mod 64]`. -/
def cell (d : Display) (row col : Nat) : Bool :=
  (d[row % 32]'(Nat.mod_lt row (by decide)))[col % 64]'(Nat.mod_lt col (by decide))

/-- `display[row mod 32][col mod 64] <- on`. -/
def setCell (d : Display) (row col : Nat) (on : Bool) : Display :=
  d.set (row % 32)
    ((d[row % 32]'(Nat.mod_lt row (by decide))).set (col % 64) on (Nat.mod_lt col (by decide)))
    (Nat.mod_lt row (by decide))

/-- All 2048 cells off. -/
def clearDisplay : Display := Vector.replicate 32 (Vector.replicate 64 false)

/-- `00E0` (R105): every display cell to off. -/
def exec00E0 (s : State) : Host.Outcome State Fault Refusal :=
  .next (setDisplay s clearDisplay)

/-- The display as it is being drawn on, and whether a collision has been recorded. -/
structure Canvas where
  display : Display
  collision : Bool
  deriving DecidableEq, Repr

/-- One set sprite bit on one cell: a lit cell goes off and is a collision, a dark one goes on. -/
def xorCell (c : Canvas) (row col : Nat) : Canvas :=
  if cell c.display row col then ⟨setCell c.display row col false, true⟩
  else ⟨setCell c.display row col true, c.collision⟩

/-- Bit `j` of a sprite byte, counted from the most significant bit. -/
def spriteBit (b : Byte) (j : Nat) : Bool := b.getLsbD (7 - j)

/-- `for j in 0..count`: the first `count` bit columns of one sprite row; a 0 bit touches nothing. -/
def drawRow (b : Byte) (row col : Nat) (c : Canvas) : Nat → Canvas
  | 0 => c
  | j + 1 =>
    if spriteBit b j then xorCell (drawRow b row col c j) row (col + j) else drawRow b row col c j

/-- `for i in 0..count`: the first `count` rows of the sprite at `I`, drawn from (`vy`, `vx`). -/
def drawSprite (s : State) (vx vy : Nat) (c : Canvas) : Nat → Canvas
  | 0 => c
  | i + 1 => drawRow (readByte s (effectiveAddress s i)) (vy + i) vx (drawSprite s vx vy c i) 8

/-- `Dxyn` (R106): the coordinates are read before `VF` is written (spec/40_cycle.md R64 (a); log 10); the collision flag
starts at 0 and is only ever set. -/
def execDxyn (x y : Reg) (n : Fin 16) (s : State) : Host.Outcome State Fault Refusal :=
  let c := drawSprite s (reg s x).toNat (reg s y).toNat ⟨s.display, false⟩ n.val
  .next (setFlag (setDisplay s c.display) c.collision)

end Sys2Proof.Machine
end

