-- ==== Sys2Proof/Machine/Index.lean ====
section
/-! DEFINITION. Index register and memory instructions Annn, Fx1E, Fx29, Fx33, Fx55, Fx65 (spec/43_index_memory.md). `I` is
never modified by an instruction that uses it as a base (R101). -/

namespace Sys2Proof.Machine

/-- `Annn` (R95): `I <- nnn`. -/
def execAnnn (nnn : Addr) (s : State) : Host.Outcome State Fault Refusal :=
  .next (setI s nnn.toNat)

/-- `Fx1E` (R96): `I <- (I + V[x]) mod 4096`, no flag. -/
def execFx1E (x : Reg) (s : State) : Host.Outcome State Fault Refusal :=
  .next (setI s (s.I.toNat + (reg s x).toNat))

/-- `Fx29` (R97): `I <- 0x050 + 5 * V[x]`. -/
def execFx29 (x : Reg) (s : State) : Host.Outcome State Fault Refusal :=
  .next (setI s (glyphAddress (reg s x)))

/-- The three stores of `Fx33`, hundreds first, the value read before any of them. -/
def storeDigits (s : State) (v : Byte) : State :=
  writeByte (writeByte (writeByte s (effectiveAddress s 0) (hundreds v)) (effectiveAddress s 1) (tens v))
    (effectiveAddress s 2) (ones v)

/-- `Fx33` (R98): the decimal digits of `V[x]` to `mem[I]`, `mem[I+1]`, `mem[I+2]`. -/
def execFx33 (x : Reg) (s : State) : Host.Outcome State Fault Refusal :=
  .next (storeDigits s (reg s x))

/-- `for i in 0..count: MemWrite(I + i, 1, V[i])`. -/
def storeBlock (s : State) : Nat → State
  | 0 => s
  | i + 1 => writeByte (storeBlock s i) (effectiveAddress s i) (reg s (blockReg i))

/-- `Fx55` (R99): `V[0]` to `V[x]`, `x + 1` bytes from `I` upward. -/
def execFx55 (x : Reg) (s : State) : Host.Outcome State Fault Refusal :=
  .next (storeBlock s (x.val + 1))

/-- `for i in 0..count: V[i] <- MemRead(I + i, 1)`. -/
def loadBlock (s : State) : Nat → State
  | 0 => s
  | i + 1 => setReg (loadBlock s i) (blockReg i) (readByte s (effectiveAddress s i))

/-- `Fx65` (R100): `V[0]` to `V[x]` from `x + 1` bytes from `I` upward. -/
def execFx65 (x : Reg) (s : State) : Host.Outcome State Fault Refusal :=
  .next (loadBlock s (x.val + 1))

end Sys2Proof.Machine
end

