-- ==== Sys2Proof/Machine/Keypad.lean ====
section
/-! DEFINITION. Keypad and timer instructions Ex9E, ExA1, Fx07, Fx0A, Fx15, Fx18 (spec/45_keypad_timers.md). The tick of the
same cycle comes after them (spec/40_cycle.md R65). -/

namespace Sys2Proof.Machine

/-- `Ex9E` (R110): skip if the key `V[x] mod 16` is held. -/
def execEx9E (x : Reg) (s : State) : Host.Outcome State Fault Refusal :=
  .next (skipIf s (keyHeld s (reg s x).toNat))

/-- `ExA1` (R111): skip if the key `V[x] mod 16` is not held. -/
def execExA1 (x : Reg) (s : State) : Host.Outcome State Fault Refusal :=
  .next (skipIf s (!keyHeld s (reg s x).toNat))

/-- `Fx0A` (R113): no key held, back to this instruction; else `V[x]` receives the least key held. A level test, with no
latch (spec/90_conflicts.md C6). -/
def execFx0A (x : Reg) (s : State) : Host.Outcome State Fault Refusal :=
  .next (match leastKey s with
    | none => rewind s
    | some k => setReg s x (BitVec.ofNat 8 k.val))

/-- `Fx07` (R112): `V[x] <- DT`, the value before this cycle's tick. -/
def execFx07 (x : Reg) (s : State) : Host.Outcome State Fault Refusal :=
  .next (setReg s x s.DT)

/-- `Fx15` (R114): `DT <- V[x]`. -/
def execFx15 (x : Reg) (s : State) : Host.Outcome State Fault Refusal :=
  .next (setDT s (reg s x))

/-- `Fx18` (R115): `ST <- V[x]`. -/
def execFx18 (x : Reg) (s : State) : Host.Outcome State Fault Refusal :=
  .next (setST s (reg s x))

end Sys2Proof.Machine
end

