-- ==== Sys2Proof/Machine/Cycle.lean ====
section
/-! DEFINITION. The cycle (spec/40_cycle.md R60): fetch, decode, dispatch, execute, tick, as one uninterruptible step. -/

namespace Sys2Proof.Machine

/-- Decode and dispatch (R63, R64): the handler of the word in `opcode`, or the effect of a decode error. -/
def execute (s : State) : Host.Outcome State Fault Refusal :=
  match decode s.opcode with
  | .ok i => exec i s
  | .error _ => .next (decodeError s)

/-- The end of the cycle (R65): the tick, in every cycle without exception; then the next cycle's inputs stand. -/
def endCycle (s : State) : State := nextInput (tick s)

/-- What the end of the cycle makes of the handler's outcome. -/
def finish : Host.Outcome State Fault Refusal → Host.Outcome State Fault Refusal
  | .next s => .next (endCycle s)
  | .fault r => .fault r
  | .refused r => .refused r

/-- `Cycle(S, k, r)` of R60, the inputs of the cycle standing in the state. -/
def cycle (s : State) : Host.Outcome State Fault Refusal := finish (execute (fetch s))

/-- The state with a word stored, big-endian, where the next fetch reads: at `pc` and `A12(pc + 1)`. -/
def placeWord (s : State) (w : Word) : State :=
  writeByte (writeByte s s.pc.toNat (bytesOfWord w).1) (s.pc.toNat + 1) (bytesOfWord w).2

end Sys2Proof.Machine
end

