-- ==== Sys2Proof/Machine/Step.lean ====
section
/-! DEFINITION. One step of the machine, which is one cycle (spec/40_cycle.md R60), and the placing of one instruction
where the next step fetches it. -/

namespace Sys2Proof.Machine

/-- One cycle (R60) of the one core: the only thing that changes the state, and a function of the state alone
(spec/00_scope.md R9, spec/60_exceptions.md R136). -/
def step (s : State) : Host.Outcome State Fault Refusal := cycle s

/-- `s` with the instruction whose bits are `w`, numbered as spec/opcode_table.json numbers them, stored where `step`
fetches its next instruction; nothing else changes. It stands for the loader (log 4). -/
def State.withFetchWord (s : State) (nbits w : Nat) : State := placeWord s (tableWord nbits w)

end Sys2Proof.Machine
end

