-- ==== Sys2Proof/Machine/Boot.lean ====
section
/-! DEFINITION. The core's side of its boundaries: the font and the program image placed before the first cycle
(spec/70_reset_and_hazards.md R141 to R144), the inputs of coming cycles (spec/40_cycle.md R66), and what the outside
reads (spec/10_state.md R27). None of these is part of a cycle. -/

namespace Sys2Proof.Machine

/-- Bytes placed verbatim from address `a` upward. -/
def loadBytes (s : State) (a : Nat) : List Byte → State
  | [] => s
  | b :: bs => loadBytes (writeByte s a b) (a + 1) bs

/-- The font at 0x050 to 0x09F: any value of the parameter `FONT_ROM` (spec/00_scope.md R6, R142). -/
def State.loadFont (s : State) (font : Vector Byte 80) : State := loadBytes s 0x050 font.toList

/-- The external loader (R143, spec/60_exceptions.md R124): the image verbatim from 0x200; one longer than 3584 bytes is
rejected, not truncated and not wrapped. -/
def State.loadRom (s : State) (rom : List Byte) : Option State :=
  if rom.length ≤ 3584 then some (loadBytes s 0x200 rom) else none

/-- Boot (R144): reset, font, program image; the next step is the first cycle. -/
def State.boot (font : Vector Byte 80) (rom : List Byte) : Option State := (State.reset.loadFont font).loadRom rom

/-- The outside fixes the inputs of the coming cycles, the first for the next step (R66, spec/60_exceptions.md R135). -/
def State.schedule (s : State) (is : List CycleInput) : State := { s with inputs := is }

/-- What the core shows between cycles (spec/10_state.md R27): the display to the presenter, `ST` to a tone generator,
`DT` and `ERR`. -/
structure Outputs where
  display : Display
  DT : Byte
  ST : Byte
  ERR : BitVec 3
  deriving DecidableEq, Repr

/-- The outputs, read without changing anything (R27, spec/44_display.md R108). -/
def State.outputs (s : State) : Outputs := ⟨s.display, s.DT, s.ST, s.ERR⟩

end Sys2Proof.Machine
end

