-- ==== Sys2Proof/Safety.lean ====
section
/-! DEFINITION. The terms claims are stated in: the invariant of the state (spec/10_state.md R24), a clean run, and what it
means that an operation changes nothing but the named pieces of state. -/

namespace Sys2Proof.Machine

/-- The invariants of R24 that the types do not already say: `pc`, `I` and every stack slot in 0 to 0xFFF, memory in its
canonical form. The widths of `V`, `DT`, `ST`, `opcode`, `ERR`, the binary cells and `sp` in 0 to 16 hold by type. -/
abbrev State.Inv (s : State) : Prop :=
  s.pc.toNat < 4096 ∧ s.I.toNat < 4096 ∧ (∀ k : Fin 16, s.stack[k].toNat < 4096) ∧ s.mem.wf = true

/-- No error event has happened since reset (spec/93_implementation_defined.md U1: a claim about a program should include
`ERR = 0`). -/
abbrev State.clean (s : State) : Prop := s.ERR = 0

/-- The pieces of state, one name for each field of `State`. -/
inductive Field where
  | V | pc | I | stack | sp | DT | ST | display | opcode | mem | ERR | inputs | cycle
  deriving DecidableEq, Repr

/-- The piece of state is the same in both states; of memory, that every address reads the same. -/
def State.same (f : Field) (s t : State) : Prop :=
  match f with
  | .V => ∀ r : Reg, reg t r = reg s r
  | .pc => t.pc = s.pc
  | .I => t.I = s.I
  | .stack => t.stack = s.stack
  | .sp => t.sp = s.sp
  | .DT => t.DT = s.DT
  | .ST => t.ST = s.ST
  | .display => t.display = s.display
  | .opcode => t.opcode = s.opcode
  | .mem => ∀ a : Nat, readByte t a = readByte s a
  | .ERR => t.ERR = s.ERR
  | .inputs => t.inputs = s.inputs
  | .cycle => t.cycle = s.cycle

/-- From `s` to `t` nothing has changed but the named pieces of state. -/
def OnlyChanges (fs : List Field) (s t : State) : Prop := ∀ f : Field, f ∉ fs → State.same f s t

/-- No general register has changed but the named ones. -/
def OnlyChangesRegs (rs : List Reg) (s t : State) : Prop := ∀ r : Reg, r ∉ rs → reg t r = reg s r

end Sys2Proof.Machine
end

