-- ==== Sys2Proof/Certificates/Slice0/Obligations.lean ====
section
/-! DEFINITION. The statements for the provers, from the numbered rules of spec/. Register contents, addresses and `pc` are
compared as numbers, as the rules write them, and not with the operations of the meanings. `exec i s` is the handler of
`i` on the state after the fetch, so `s.pc` is the post-fetch value (spec/40_cycle.md R62); `step` is the whole cycle. -/

open Sys2Proof Sys2Proof.Machine

/-! ## Terms of the statements -/

/-- Format NNN of spec/30_encoding.md: every word with this top nibble is the instruction, with `nnn` = bits 11:0. -/
def Sys2Proof.Claims.EncodedNNN (op : Nat) (f : Addr → Instr) : Prop :=
  ∀ w : Word, w.op = op → ∃ nnn : Addr, decode w = .ok (f nnn) ∧ nnn.toNat = w.toNat % 4096

/-- Format XKK: every word with this top nibble is the instruction, with `x` = bits 11:8 and `kk` = bits 7:0. -/
def Sys2Proof.Claims.EncodedXKK (op : Nat) (f : Reg → Byte → Instr) : Prop :=
  ∀ w : Word, w.op = op →
    ∃ (x : Reg) (kk : Byte), decode w = .ok (f x kk) ∧ x.val = w.toNat / 256 % 16 ∧ kk.toNat = w.toNat % 256

/-- Format XYN in family 8: the low nibble selects the instruction, `x` = bits 11:8 and `y` = bits 7:4. -/
def Sys2Proof.Claims.EncodedXYN (op low : Nat) (f : Reg → Reg → Instr) : Prop :=
  ∀ w : Word, w.op = op → w.low = low →
    ∃ x y : Reg, decode w = .ok (f x y) ∧ x.val = w.toNat / 256 % 16 ∧ y.val = w.toNat / 16 % 16

/-- `5xy0` and `9xy0`: every word with this top nibble, whatever its low nibble (R49), `x` = bits 11:8 and `y` = bits 7:4. -/
def Sys2Proof.Claims.EncodedXY (op : Nat) (f : Reg → Reg → Instr) : Prop :=
  ∀ w : Word, w.op = op →
    ∃ x y : Reg, decode w = .ok (f x y) ∧ x.val = w.toNat / 256 % 16 ∧ y.val = w.toNat / 16 % 16

/-- Format XS in family E: the low nibble alone selects the instruction (R52), `x` = bits 11:8. -/
def Sys2Proof.Claims.EncodedX (low : Nat) (f : Reg → Instr) : Prop :=
  ∀ w : Word, w.op = 0xE → w.low = low → ∃ x : Reg, decode w = .ok (f x) ∧ x.val = w.toNat / 256 % 16

/-- `Dxyn`: every word with top nibble D, `x`, `y` and `n` its three lower nibbles. -/
def Sys2Proof.Claims.EncodedDraw : Prop :=
  ∀ w : Word, w.op = 0xD → ∃ (x y : Reg) (n : Fin 16), decode w = .ok (.opDxyn x y n) ∧
    x.val = w.toNat / 256 % 16 ∧ y.val = w.toNat / 16 % 16 ∧ n.val = w.toNat % 16

/-- Format XS in family F: the low byte selects the instruction, `x` = bits 11:8. -/
def Sys2Proof.Claims.EncodedXS (lowByte : Nat) (f : Reg → Instr) : Prop :=
  ∀ w : Word, w.op = 0xF → w.lowByte = lowByte → ∃ x : Reg, decode w = .ok (f x) ∧ x.val = w.toNat / 256 % 16

/-- The word the next step fetches. -/
def Sys2Proof.Claims.nextWord (s : State) : Word := readWord s s.pc.toNat

/-- Bit `j` of the sprite row `i` of a `Dxyn` executed in `s`, `j` counted from the most significant bit (R106). -/
def Sys2Proof.Claims.spriteHas (s : State) (i j : Nat) : Bool :=
  (readByte s ((s.I.toNat + i) % 4096)).toNat.testBit (7 - j)

/-- `s(r, c)` of R106: some bit of the first `n` sprite rows is set and lands on the cell of row `r` and column `c`. -/
def Sys2Proof.Claims.SpriteCovers (s : State) (vx vy n r c : Nat) : Prop :=
  ∃ i j : Nat, i < n ∧ j < 8 ∧ r = (vy + i) % 32 ∧ c = (vx + j) % 64 ∧ Claims.spriteHas s i j = true

/-- The registers an instruction may write: the table of spec/10_state.md R11. -/
def Sys2Proof.Claims.registersWritten : Instr → List Reg
  | .op6xkk x _ => [x] | .op7xkk x _ => [x]
  | .op8xy0 x _ => [x] | .op8xy1 x _ => [x] | .op8xy2 x _ => [x] | .op8xy3 x _ => [x]
  | .op8xy4 x _ => [x, VF] | .op8xy5 x _ => [x, VF] | .op8xy6 x _ => [x, VF]
  | .op8xy7 x _ => [x, VF] | .op8xyE x _ => [x, VF]
  | .opCxkk x _ => [x] | .opFx07 x => [x] | .opFx0A x => [x]
  | .opFx65 x => (List.finRange 16).filter (fun r => decide (r.val ≤ x.val))
  | .opDxyn _ _ _ => [VF]
  | .op00E0 => [] | .op00EE => [] | .op1nnn _ => [] | .op2nnn _ => []
  | .op3xkk _ _ => [] | .op4xkk _ _ => [] | .op5xy0 _ _ => [] | .op9xy0 _ _ => []
  | .opAnnn _ => [] | .opBnnn _ => [] | .opEx9E _ => [] | .opExA1 _ => []
  | .opFx15 _ => [] | .opFx18 _ => [] | .opFx1E _ => [] | .opFx29 _ => [] | .opFx33 _ => [] | .opFx55 _ => []

/-- The pieces of state a handler may write: the column "written by" of the table in spec/10_state.md section 8. -/
def Sys2Proof.Claims.stateWritten : Instr → List Field
  | .op00E0 => [.display]
  | .op00EE => [.sp, .pc, .ERR]
  | .op1nnn _ => [.pc] | .opBnnn _ => [.pc]
  | .op2nnn _ => [.stack, .sp, .pc, .ERR]
  | .op3xkk _ _ => [.pc] | .op4xkk _ _ => [.pc] | .op5xy0 _ _ => [.pc] | .op9xy0 _ _ => [.pc]
  | .opEx9E _ => [.pc] | .opExA1 _ => [.pc]
  | .op6xkk _ _ => [.V] | .op7xkk _ _ => [.V] | .op8xy0 _ _ => [.V] | .op8xy1 _ _ => [.V]
  | .op8xy2 _ _ => [.V] | .op8xy3 _ _ => [.V] | .op8xy4 _ _ => [.V] | .op8xy5 _ _ => [.V]
  | .op8xy6 _ _ => [.V] | .op8xy7 _ _ => [.V] | .op8xyE _ _ => [.V] | .opCxkk _ _ => [.V]
  | .opFx07 _ => [.V] | .opFx65 _ => [.V]
  | .opFx0A _ => [.V, .pc]
  | .opAnnn _ => [.I] | .opFx1E _ => [.I] | .opFx29 _ => [.I]
  | .opDxyn _ _ _ => [.V, .display]
  | .opFx15 _ => [.DT] | .opFx18 _ => [.ST]
  | .opFx33 _ => [.mem] | .opFx55 _ => [.mem]

/-- The addresses a handler may store to (spec/20_memory.md R34, R36): three for `Fx33`, `x + 1` for `Fx55`. -/
def Sys2Proof.Claims.storesTo (s : State) (a : Nat) : Instr → Prop
  | .opFx33 _ => ∃ i, i < 3 ∧ a = (s.I.toNat + i) % 4096
  | .opFx55 x => ∃ i, i ≤ x.val ∧ a = (s.I.toNat + i) % 4096
  | _ => False

/-- The table of spec/40_cycle.md R69, with `p` the address of the instruction and all sums modulo 4096: the `pc` after the
cycle of an instruction executed in `s`. -/
def Sys2Proof.Claims.pcAfter (s : State) : Instr → Nat
  | .op1nnn nnn => nnn.toNat
  | .op2nnn nnn => if s.sp.val = 16 then (s.pc.toNat + 2) % 4096 else nnn.toNat
  | .op00EE =>
    if h : 0 < s.sp.val then (s.stack[s.sp.val - 1]'(by omega)).toNat % 4096 else (s.pc.toNat + 2) % 4096
  | .opBnnn nnn => ((reg s 0).toNat + nnn.toNat) % 4096
  | .op3xkk x kk => (s.pc.toNat + if reg s x = kk then 4 else 2) % 4096
  | .op4xkk x kk => (s.pc.toNat + if reg s x = kk then 2 else 4) % 4096
  | .op5xy0 x y => (s.pc.toNat + if reg s x = reg s y then 4 else 2) % 4096
  | .op9xy0 x y => (s.pc.toNat + if reg s x = reg s y then 2 else 4) % 4096
  | .opEx9E x => (s.pc.toNat + if (keys s).toNat.testBit ((reg s x).toNat % 16) then 4 else 2) % 4096
  | .opExA1 x => (s.pc.toNat + if (keys s).toNat.testBit ((reg s x).toNat % 16) then 2 else 4) % 4096
  | .opFx0A _ => (s.pc.toNat + if keys s = 0 then 0 else 2) % 4096
  | _ => (s.pc.toNat + 2) % 4096

/-- The error event of a cycle (spec/60_exceptions.md R120, R127), as the bits of `ERR` it sets: bit 0 for a word that is
no instruction, bit 1 for a `2nnn` with `sp` = 16, bit 2 for a `00EE` with `sp` = 0, none otherwise. -/
def Sys2Proof.Claims.eventBits (s : State) (w : Word) : BitVec 3 :=
  if w.wellFormed = false then 1
  else if w.op = 2 ∧ s.sp.val = 16 then 2
  else if w.op = 0 ∧ w.low = 0xE ∧ s.sp.val = 0 then 4
  else 0

/-- The five rows of the glyph of a hexadecimal digit, the table of spec/93_implementation_defined.md GK1 (log 5). -/
def Sys2Proof.Claims.customaryGlyph (d : Nat) : List Nat :=
  match d with
  | 0x0 => [0xF0, 0x90, 0x90, 0x90, 0xF0]
  | 0x1 => [0x20, 0x60, 0x20, 0x20, 0x70]
  | 0x2 => [0xF0, 0x10, 0xF0, 0x80, 0xF0]
  | 0x3 => [0xF0, 0x10, 0xF0, 0x10, 0xF0]
  | 0x4 => [0x90, 0x90, 0xF0, 0x10, 0x10]
  | 0x5 => [0xF0, 0x80, 0xF0, 0x10, 0xF0]
  | 0x6 => [0xF0, 0x80, 0xF0, 0x90, 0xF0]
  | 0x7 => [0xF0, 0x10, 0x20, 0x40, 0x40]
  | 0x8 => [0xF0, 0x90, 0xF0, 0x90, 0xF0]
  | 0x9 => [0xF0, 0x90, 0xF0, 0x10, 0xF0]
  | 0xA => [0xF0, 0x90, 0xF0, 0x90, 0x90]
  | 0xB => [0xE0, 0x90, 0xE0, 0x90, 0xE0]
  | 0xC => [0xF0, 0x80, 0x80, 0x80, 0xF0]
  | 0xD => [0xE0, 0x90, 0x90, 0x90, 0xE0]
  | 0xE => [0xF0, 0x80, 0xF0, 0x80, 0xF0]
  | 0xF => [0xF0, 0x80, 0xF0, 0x80, 0x80]
  | _ => []

/-! ## Encoding and decoding -/

/-- Words written out from the patterns of spec/30_encoding.md decode to the instructions they stand for, one of every
family, ignored bits included (R49, R50, R52; the spec's D2, log 9). -/
def Obligations.WordsWrittenOutFromThePatternsDecode : Prop :=
  decode 0b0000000011100000 = .ok .op00E0 ∧
  decode 0b0000101010101110 = .ok .op00EE ∧
  decode 0b0010101010111100 = .ok (.op2nnn 0xABC) ∧
  decode 0b0011101000000101 = .ok (.op3xkk 10 5) ∧
  decode 0b0101000100100111 = .ok (.op5xy0 1 2) ∧
  decode 0b1000000100101110 = .ok (.op8xyE 1 2) ∧
  decode 0b1101001101000101 = .ok (.opDxyn 3 4 5) ∧
  decode 0b1110000111111110 = .ok (.opEx9E 1) ∧
  decode 0b1111001001100101 = .ok (.opFx65 2) ∧
  decode 0b0000000011111111 = .error .family0 ∧
  decode 0b1000000100101111 = .error .family8 ∧
  decode 0b1110000110011101 = .error .familyE ∧
  decode 0b1111000101010100 = .error .familyF

/-- Decoding the encoded word of any instruction gives the instruction back, with every operand at every value. -/
def Obligations.DecodeOfEncodeIsTheInstruction : Prop := ∀ i : Instr, decode (encode i) = .ok i

/-- The other direction: of the words of one instruction exactly the canonical ones (R55) are what the encoder emits. It
rests on the spec's D2 (log 9): the other words decode too. -/
def Obligations.EncodeOfDecodeIsTheWordExactlyIfCanonical : Prop :=
  ∀ (w : Word) (i : Instr), decode w = .ok i → (encode i = w ↔ w.canonical = true)

/-- A word is a decode error exactly when it falls in one of the four sets of R54, and the error names the set. It rests on
the spec's D2 (log 9) for the bits that are not decoded. -/
def Obligations.DecodeErrorsAreExactlyTheFourSets : Prop :=
  (∀ w : Word, (∃ e, decode w = .error e) ↔ w.wellFormed = false) ∧
  (∀ w : Word, decode w = .error .family0 ↔ family0WellFormed w = false) ∧
  (∀ w : Word, decode w = .error .family8 ↔ family8WellFormed w = false) ∧
  (∀ w : Word, decode w = .error .familyE ↔ familyEWellFormed w = false) ∧
  (∀ w : Word, decode w = .error .familyF ↔ familyFWellFormed w = false)

/-- The two-level dispatch and the opcode map of spec/30_encoding.md section 4 are the same decoder: a decoded word
belongs to its instruction's row, a word of a row decodes to an instruction of that row, and no word belongs to two rows.
It rests on the spec's D2 (log 9) for the masks of six rows. -/
def Obligations.DispatchAgreesWithTheOpcodeMap : Prop :=
  (∀ (w : Word) (i : Instr), decode w = .ok i → rowOf i ∈ opcodeTable ∧ (rowOf i).accepts w = true) ∧
  (∀ (w : Word) (r : OpcodeRow), r ∈ opcodeTable → r.accepts w = true → ∃ i, decode w = .ok i ∧ rowOf i = r) ∧
  (∀ (w : Word) (r r' : OpcodeRow), r ∈ opcodeTable → r' ∈ opcodeTable → r.accepts w = true → r'.accepts w = true →
    r = r')

/-! ## The cycle -/

/-- A step whose fetched word decodes to `i` is the handler of `i` on the state after the fetch, followed by the end of the
cycle (R60 to R65). The fetch reads the word big-endian, puts it in `opcode` and advances `pc` by 2, both modulo 4096 (the
spec's D3, log 8), and changes nothing else; the end of the cycle counts both timers down to no less than 0, and gives
the next cycle inputs of its own (log 1, 3). -/
def Obligations.StepRunsTheDecodedInstruction : Prop :=
  ∀ (s : State) (i : Instr), decode (Claims.nextWord s) = .ok i →
    step s = finish (exec i (fetch s)) ∧
    (Claims.nextWord s).toNat = 256 * (readByte s s.pc.toNat).toNat + (readByte s ((s.pc.toNat + 1) % 4096)).toNat ∧
    (fetch s).opcode = Claims.nextWord s ∧ (fetch s).pc.toNat = (s.pc.toNat + 2) % 4096 ∧
    OnlyChanges [.opcode, .pc] s (fetch s) ∧
    ∀ u, exec i (fetch s) = .next u →
      ∃ t, step s = .next t ∧ t.DT.toNat = u.DT.toNat - 1 ∧ t.ST.toNat = u.ST.toNat - 1 ∧
        t.inputs = s.inputs.tail ∧ t.cycle = s.cycle + 1 ∧ OnlyChanges [.DT, .ST, .inputs, .cycle] u t

/-- The cycle of a word that is no instruction (R121): `opcode` takes the word, `pc` advances by 2, `ERR.DEC` is set, the
timers tick, and nothing else of the spec's state changes. The form of the report is the spec's D7 and D8 (log 13), the wrap
its D3 (log 8). That the next cycle gets inputs of its own, in the fields `inputs` and `cycle`, is the model's choice
(log 3). -/
def Obligations.DecodeErrorCycleOnlyReports : Prop :=
  ∀ (s : State) (e : DecodeError), decode (Claims.nextWord s) = .error e →
    ∃ t, step s = .next t ∧ t.opcode = Claims.nextWord s ∧ t.pc.toNat = (s.pc.toNat + 2) % 4096 ∧
      (∀ k, k < 3 → t.ERR.getLsbD k = (s.ERR.getLsbD k || decide (k = 0))) ∧
      t.DT.toNat = s.DT.toNat - 1 ∧ t.ST.toNat = s.ST.toNat - 1 ∧
      t.inputs = s.inputs.tail ∧ t.cycle = s.cycle + 1 ∧
      OnlyChanges [.opcode, .pc, .ERR, .DT, .ST, .inputs, .cycle] s t

/-- The machine is never stuck (R60, R150, R153): every state has a next state. -/
def Obligations.EveryStateHasANextState : Prop := ∀ s : State, ∃ t, step s = .next t

/-- The `pc` after the cycle, for every instruction and for a decode error, is that of the table of R69. Sums wrap by the
spec's D3 (log 8); stack overflow and underflow fall through by its D5 and D6 (log 11, 12); `Ex9E` and `ExA1` test key
`V[x]` mod 16 by its D10 (log 15), at the one keypad level of the cycle by its D16 (log 1). -/
def Obligations.PcAfterTheCycleFollowsTheTable : Prop :=
  (∀ (s t : State) (i : Instr), decode (Claims.nextWord s) = .ok i → step s = .next t →
    t.pc.toNat = Claims.pcAfter s i) ∧
  (∀ (s t : State) (e : DecodeError), decode (Claims.nextWord s) = .error e → step s = .next t →
    t.pc.toNat = (s.pc.toNat + 2) % 4096)

/-- The tick happens in every cycle (R65): unless the cycle executes the instruction that writes the timer, the timer is
one less after it, and 0 stays 0; in the cycle of `Fx15` or `Fx18` the tick acts on the value just written (the reading
of the spec that 91_not_in_source.md N8 settles, log 17). -/
def Obligations.TimersTickInEveryCycle : Prop :=
  ∀ s t : State, step s = .next t →
    ((∀ x, decode (Claims.nextWord s) ≠ .ok (.opFx15 x)) → t.DT.toNat = s.DT.toNat - 1) ∧
    ((∀ x, decode (Claims.nextWord s) ≠ .ok (.opFx18 x)) → t.ST.toNat = s.ST.toNat - 1) ∧
    (∀ x, decode (Claims.nextWord s) = .ok (.opFx15 x) → t.DT.toNat = (reg s x).toNat - 1) ∧
    (∀ x, decode (Claims.nextWord s) = .ok (.opFx18 x) → t.ST.toNat = (reg s x).toNat - 1)

/-- A jump to itself changes nothing but the timers and `opcode`, cycle after cycle (R150): the inputs move on by the
model's own fields (log 3). The premise `pc` < 4096 is R24's invariant. -/
def Obligations.JumpToItselfIdles : Prop :=
  ∀ (s : State) (nnn : Addr), s.pc.toNat < 4096 → decode (Claims.nextWord s) = .ok (.op1nnn nnn) →
    nnn.toNat = s.pc.toNat →
    ∃ t, step s = .next t ∧ Claims.nextWord t = Claims.nextWord s ∧ OnlyChanges [.DT, .ST, .opcode, .inputs, .cycle] s t

/-! ## Invariants and whole-machine rules -/

/-- Every step keeps the invariants of R24 that the types do not already say, `pc`, `I` and every stack slot in 0 to 0xFFF,
and with them memory in its canonical form, which is the model's own choice (log 6) and no rule of the spec. That `pc` and
`I` wrap is the spec's D3 (log 8). -/
def Obligations.EveryStepKeepsTheStateInvariant : Prop :=
  ∀ s t : State, s.Inv → step s = .next t → t.Inv

/-- The invariants of R24 and the canonical form of memory, which is the model's own choice (log 6), hold after reset. The
zeros of `I` and the stack are the spec's D11 (log 7). -/
def Obligations.ResetMeetsTheStateInvariant : Prop := State.reset.Inv

/-- `ERR` is sticky and only the three events of R120 set a bit of it, at most one a cycle (R22, R126, R127): after a step
it holds what it held and the bit of this cycle's event. The register and the two stack events are the spec's
D5 to D8 (log 11 to 13); which words are decode errors, and that every word `0??E` is the return, rests on its D2 (log 9). -/
def Obligations.ErrorBitsAreStickyAndSetByEventsOnly : Prop :=
  ∀ s t : State, step s = .next t → t.ERR = s.ERR ||| Claims.eventBits s (Claims.nextWord s)

/-- `ERR` has no effect on execution (R22): from two states that differ in `ERR` alone, the steps lead to states that differ
in `ERR` alone. The register itself is the spec's D8 (log 13). -/
def Obligations.ErrorBitsDoNotInfluenceExecution : Prop :=
  ∀ (s t : State) (e : BitVec 3), step s = .next t →
    ∃ e' : BitVec 3, step { s with ERR := e } = .next { t with ERR := e' }

/-- The keypad is read only by `Ex9E`, `ExA1` and `Fx0A` (R18, R66): in a cycle that executes none of them, two keypad
levels lead to the same state. That a cycle samples the keypad once is the spec's D16 (log 1). -/
def Obligations.OnlyThreeInstructionsReadTheKeypad : Prop :=
  ∀ (s : State) (k k' : BitVec 16) (r : Byte) (is : List CycleInput),
    (∀ x, decode (Claims.nextWord s) ≠ .ok (.opEx9E x)) → (∀ x, decode (Claims.nextWord s) ≠ .ok (.opExA1 x)) →
    (∀ x, decode (Claims.nextWord s) ≠ .ok (.opFx0A x)) →
    step (s.schedule (⟨k, r⟩ :: is)) = step (s.schedule (⟨k', r⟩ :: is))

/-- The random byte is read only by `Cxkk` (R23, R66): in a cycle that executes another word, two random bytes lead to the
same state. That the byte is an input of the cycle is the spec's D15 (log 2). -/
def Obligations.OnlyCxkkReadsTheRandomByte : Prop :=
  ∀ (s : State) (k : BitVec 16) (r r' : Byte) (is : List CycleInput),
    (∀ x kk, decode (Claims.nextWord s) ≠ .ok (.opCxkk x kk)) →
    step (s.schedule (⟨k, r⟩ :: is)) = step (s.schedule (⟨k, r'⟩ :: is))

/-- Each piece of state is written only by the instructions that the spec's tables name for it (spec/10_state.md R11, R13 to
R22 and section 8; spec/20_memory.md R34): the fields, the general registers, and the bytes of memory. `ERR` and its three
events are the spec's D5 to D8 (log 11 to 13), the wrap of a stored address its D3 (log 8). -/
def Obligations.HandlersWriteOnlyWhatTheTablesName : Prop :=
  ∀ (i : Instr) (s t : State), exec i s = .next t →
    OnlyChanges (Claims.stateWritten i) s t ∧ OnlyChangesRegs (Claims.registersWritten i) s t ∧
    ∀ a : Nat, a < 4096 → ¬ Claims.storesTo s a i → readByte t a = readByte s a

/-- Memory has one canonical form: two canonical memories that read alike at all 4096 addresses are equal. -/
def Obligations.CanonicalMemoriesThatReadAlikeAreEqual : Prop :=
  ∀ m m' : Memory, m.wf = true → m'.wf = true → (∀ a, a < 4096 → m.read a = m'.read a) → m = m'

/-! ## Control transfers -/

/-- `1nnn` (R71): every word with top nibble 1 is the jump, and it sets `pc` to `nnn` and changes nothing else. -/
def Obligations.JumpGoesToItsAddress : Prop :=
  Claims.EncodedNNN 0x1 .op1nnn ∧
  ∀ (s : State) (nnn : Addr), ∃ t, exec (.op1nnn nnn) s = .next t ∧ t.pc.toNat = nnn.toNat ∧ OnlyChanges [.pc] s t

/-- `Bnnn` (R77): every word with top nibble B is the jump to `V[0] + nnn`, always register 0. A sum above 0xFFF wraps by
the spec's D3 (log 8). -/
def Obligations.OffsetJumpAddsRegisterZero : Prop :=
  Claims.EncodedNNN 0xB .opBnnn ∧
  ∀ (s : State) (nnn : Addr), ∃ t, exec (.opBnnn nnn) s = .next t ∧
    t.pc.toNat = ((reg s 0).toNat + nnn.toNat) % 4096 ∧ OnlyChanges [.pc] s t

/-- `2nnn` with a free slot (R72): the slot `sp` indexes takes the post-fetch `pc`, `sp` counts one more, `pc` becomes
`nnn`, the other slots and everything else stay. -/
def Obligations.CallSavesTheReturnAddress : Prop :=
  Claims.EncodedNNN 0x2 .op2nnn ∧
  ∀ (s : State) (nnn : Addr) (h : s.sp.val < 16), ∃ t, exec (.op2nnn nnn) s = .next t ∧
    t.stack[s.sp.val] = s.pc ∧ (∀ k : Fin 16, k.val ≠ s.sp.val → t.stack[k] = s.stack[k]) ∧
    t.sp.val = s.sp.val + 1 ∧ t.pc.toNat = nnn.toNat ∧ OnlyChanges [.stack, .sp, .pc] s t

/-- `2nnn` on a full stack (R122, the spec's D5, log 11): the call is not performed, `pc` keeps its post-fetch value, and
only `ERR.SOVF` is set. -/
def Obligations.CallOnAFullStackOnlyReports : Prop :=
  ∀ (s : State) (nnn : Addr), s.sp.val = 16 → ∃ t, exec (.op2nnn nnn) s = .next t ∧
    (∀ k, k < 3 → t.ERR.getLsbD k = (s.ERR.getLsbD k || decide (k = 1))) ∧ OnlyChanges [.ERR] s t

/-- `00EE` with an entry on the stack (R70): `sp` counts one less, `pc` becomes the slot the new `sp` indexes, the slot and
everything else stay. That a `pc` is reduced modulo 4096 is the spec's D3 (log 8); a slot is below 4096 by R24. Every word
`0??E` is the return by the spec's D2 (log 9). -/
def Obligations.ReturnTakesTheLastReturnAddress : Prop :=
  (∀ w : Word, w.op = 0 → w.low = 0xE → decode w = .ok .op00EE) ∧
  ∀ (s : State) (h : 0 < s.sp.val), ∃ t, exec .op00EE s = .next t ∧ t.sp.val = s.sp.val - 1 ∧
    t.pc.toNat = (s.stack[s.sp.val - 1]'(by omega)).toNat % 4096 ∧ OnlyChanges [.sp, .pc] s t

/-- `00EE` on an empty stack (R123, the spec's D6, log 12): the return is not performed, `pc` keeps its post-fetch value,
and only `ERR.SUNF` is set. -/
def Obligations.ReturnOnAnEmptyStackOnlyReports : Prop :=
  ∀ s : State, s.sp.val = 0 → ∃ t, exec .op00EE s = .next t ∧
    (∀ k, k < 3 → t.ERR.getLsbD k = (s.ERR.getLsbD k || decide (k = 2))) ∧ OnlyChanges [.ERR] s t

/-- A return undoes its call: after a `2nnn` with a free slot, in whatever state has the stack and `sp` the call left, a
`00EE` comes back to the call's post-fetch `pc` with the `sp` from before the call (R70, R72, R147). The premise `pc` <
4096 is R24's invariant. -/
def Obligations.ReturnComesBackToAfterTheCall : Prop :=
  ∀ (s t u : State) (nnn : Addr), s.pc.toNat < 4096 → s.sp.val < 16 → exec (.op2nnn nnn) s = .next t →
    u.stack = t.stack → u.sp = t.sp →
    ∃ v, exec .op00EE u = .next v ∧ v.pc = s.pc ∧ v.sp = s.sp ∧ v.stack = t.stack ∧ v.ERR = u.ERR

/-- The four register skips (R73 to R76, R79): exactly when the condition holds, 2 is added to the post-fetch `pc`; nothing
else changes. At the top of memory the sum wraps by the spec's D3 (log 8); that the low nibble of `5xy?` and `9xy?` is
ignored is its D2 (log 9). -/
def Obligations.RegisterSkipsAddTwoWhenTheConditionHolds : Prop :=
  Claims.EncodedXKK 0x3 .op3xkk ∧ Claims.EncodedXKK 0x4 .op4xkk ∧ Claims.EncodedXY 0x5 .op5xy0 ∧
  Claims.EncodedXY 0x9 .op9xy0 ∧
  ∀ (s : State) (x y : Reg) (kk : Byte),
    (∃ t, exec (.op3xkk x kk) s = .next t ∧ OnlyChanges [.pc] s t ∧
      t.pc.toNat = if (reg s x).toNat = kk.toNat then (s.pc.toNat + 2) % 4096 else s.pc.toNat) ∧
    (∃ t, exec (.op4xkk x kk) s = .next t ∧ OnlyChanges [.pc] s t ∧
      t.pc.toNat = if (reg s x).toNat = kk.toNat then s.pc.toNat else (s.pc.toNat + 2) % 4096) ∧
    (∃ t, exec (.op5xy0 x y) s = .next t ∧ OnlyChanges [.pc] s t ∧
      t.pc.toNat = if (reg s x).toNat = (reg s y).toNat then (s.pc.toNat + 2) % 4096 else s.pc.toNat) ∧
    (∃ t, exec (.op9xy0 x y) s = .next t ∧ OnlyChanges [.pc] s t ∧
      t.pc.toNat = if (reg s x).toNat = (reg s y).toNat then s.pc.toNat else (s.pc.toNat + 2) % 4096)

/-- The two key skips (R110, R111): a level test of the key named by the low four bits of `V[x]` (the spec's D10, log 15);
nothing but `pc` changes, which wraps by the spec's D3 (log 8). Bits 7:4 of the word are ignored by its D2 (log 9). The
level is the one given to the cycle (R18, R66): the scheduled one where one is scheduled, else a free value (log 1). -/
def Obligations.KeySkipsTestTheLevelOfTheKey : Prop :=
  Claims.EncodedX 0xE .opEx9E ∧ Claims.EncodedX 0x1 .opExA1 ∧
  (∀ (s : State) (i : CycleInput) (is : List CycleInput), keys (s.schedule (i :: is)) = i.keys) ∧
  ∀ (s : State) (x : Reg),
    (∃ t, exec (.opEx9E x) s = .next t ∧ OnlyChanges [.pc] s t ∧
      t.pc.toNat =
        if (keys s).toNat.testBit ((reg s x).toNat % 16) then (s.pc.toNat + 2) % 4096 else s.pc.toNat) ∧
    (∃ t, exec (.opExA1 x) s = .next t ∧ OnlyChanges [.pc] s t ∧
      t.pc.toNat =
        if (keys s).toNat.testBit ((reg s x).toNat % 16) then s.pc.toNat else (s.pc.toNat + 2) % 4096)

/-! ## Load, arithmetic, logic, shift, random -/

/-- `6xkk`, `7xkk`, `8xy0` (R80 to R82): load an immediate, add one modulo 256 without a flag, copy a register. Only `V[x]`
changes. -/
def Obligations.LoadsAndAddImmediateWriteOneRegister : Prop :=
  Claims.EncodedXKK 0x6 .op6xkk ∧ Claims.EncodedXKK 0x7 .op7xkk ∧ Claims.EncodedXYN 0x8 0x0 .op8xy0 ∧
  ∀ (s : State) (x y : Reg) (kk : Byte),
    (∃ t, exec (.op6xkk x kk) s = .next t ∧ reg t x = kk ∧ OnlyChangesRegs [x] s t ∧ OnlyChanges [.V] s t) ∧
    (∃ t, exec (.op7xkk x kk) s = .next t ∧ (reg t x).toNat = ((reg s x).toNat + kk.toNat) % 256 ∧
      OnlyChangesRegs [x] s t ∧ OnlyChanges [.V] s t) ∧
    (∃ t, exec (.op8xy0 x y) s = .next t ∧ reg t x = reg s y ∧ OnlyChangesRegs [x] s t ∧ OnlyChanges [.V] s t)

/-- `8xy1`, `8xy2`, `8xy3` (R83 to R85): or, and, exclusive or of all 8 bits into `V[x]`; no flag, nothing else changes. -/
def Obligations.LogicWorksOnAllBitsAndSetsNoFlag : Prop :=
  Claims.EncodedXYN 0x8 0x1 .op8xy1 ∧ Claims.EncodedXYN 0x8 0x2 .op8xy2 ∧ Claims.EncodedXYN 0x8 0x3 .op8xy3 ∧
  ∀ (s : State) (x y : Reg),
    (∃ t, exec (.op8xy1 x y) s = .next t ∧ OnlyChangesRegs [x] s t ∧ OnlyChanges [.V] s t ∧
      ∀ j, (reg t x).toNat.testBit j = ((reg s x).toNat.testBit j || (reg s y).toNat.testBit j)) ∧
    (∃ t, exec (.op8xy2 x y) s = .next t ∧ OnlyChangesRegs [x] s t ∧ OnlyChanges [.V] s t ∧
      ∀ j, (reg t x).toNat.testBit j = ((reg s x).toNat.testBit j && (reg s y).toNat.testBit j)) ∧
    (∃ t, exec (.op8xy3 x y) s = .next t ∧ OnlyChangesRegs [x] s t ∧ OnlyChanges [.V] s t ∧
      ∀ j, (reg t x).toNat.testBit j = ((reg s x).toNat.testBit j ^^ (reg s y).toNat.testBit j))

/-- `8xy4` with `x` other than 15 (R86): the sum modulo 256 in `V[x]` and in `VF` the carry; nothing else changes. The case
`x` = 15 is in `FlagIsLostWhenTheResultGoesToRegister15`. -/
def Obligations.AddSetsTheCarryFlag : Prop :=
  Claims.EncodedXYN 0x8 0x4 .op8xy4 ∧
  ∀ (s : State) (x y : Reg), x ≠ VF → ∃ t, exec (.op8xy4 x y) s = .next t ∧
    (reg t x).toNat = ((reg s x).toNat + (reg s y).toNat) % 256 ∧
    (reg t VF).toNat = (if (reg s x).toNat + (reg s y).toNat > 255 then 1 else 0) ∧
    OnlyChangesRegs [x, VF] s t ∧ OnlyChanges [.V] s t

/-- `8xy5` and `8xy7` with neither operand register 15 (R87, R89): the difference modulo 256 in `V[x]`, and `VF` is 1
exactly when the minuend is strictly greater; nothing else changes. Register 15 as an operand is in
`FlagIsLostWhenTheResultGoesToRegister15` and `OldFlagIsTheOperandInRegister15`. -/
def Obligations.SubtractsSetTheFlagIfStrictlyGreater : Prop :=
  Claims.EncodedXYN 0x8 0x5 .op8xy5 ∧ Claims.EncodedXYN 0x8 0x7 .op8xy7 ∧
  ∀ (s : State) (x y : Reg), x ≠ VF → y ≠ VF →
    (∃ t, exec (.op8xy5 x y) s = .next t ∧
      (reg t x).toNat = ((reg s x).toNat + 256 - (reg s y).toNat) % 256 ∧
      (reg t VF).toNat = (if (reg s x).toNat > (reg s y).toNat then 1 else 0) ∧
      OnlyChangesRegs [x, VF] s t ∧ OnlyChanges [.V] s t) ∧
    (∃ t, exec (.op8xy7 x y) s = .next t ∧
      (reg t x).toNat = ((reg s y).toNat + 256 - (reg s x).toNat) % 256 ∧
      (reg t VF).toNat = (if (reg s y).toNat > (reg s x).toNat then 1 else 0) ∧
      OnlyChangesRegs [x, VF] s t ∧ OnlyChanges [.V] s t)

/-- `8xy6` and `8xyE` with `x` other than 15 (R88, R90): `V[x]` shifted in place by one, `VF` the bit shifted out of the old
value, `V[y]` not read; nothing else changes. The case `x` = 15 is in `FlagIsLostWhenTheResultGoesToRegister15`. -/
def Obligations.ShiftsTakeTheFlagFromTheOldValue : Prop :=
  Claims.EncodedXYN 0x8 0x6 .op8xy6 ∧ Claims.EncodedXYN 0x8 0xE .op8xyE ∧
  ∀ (s : State) (x y : Reg), x ≠ VF →
    (∃ t, exec (.op8xy6 x y) s = .next t ∧ (reg t x).toNat = (reg s x).toNat / 2 ∧
      (reg t VF).toNat = (reg s x).toNat % 2 ∧ OnlyChangesRegs [x, VF] s t ∧ OnlyChanges [.V] s t) ∧
    (∃ t, exec (.op8xyE x y) s = .next t ∧ (reg t x).toNat = 2 * (reg s x).toNat % 256 ∧
      (reg t VF).toNat = (reg s x).toNat / 128 ∧ OnlyChangesRegs [x, VF] s t ∧ OnlyChanges [.V] s t)

/-- The columns `x` = 15 of the table in R92: the result of the old `VF` stays in register 15 and the flag is lost. It rests
on the spec's D4 (log 10). -/
def Obligations.FlagIsLostWhenTheResultGoesToRegister15 : Prop :=
  ∀ (s : State) (y : Reg),
    (∃ t, exec (.op8xy4 VF y) s = .next t ∧ (reg t VF).toNat = ((reg s VF).toNat + (reg s y).toNat) % 256 ∧
      OnlyChangesRegs [VF] s t ∧ OnlyChanges [.V] s t) ∧
    (∃ t, exec (.op8xy5 VF y) s = .next t ∧
      (reg t VF).toNat = ((reg s VF).toNat + 256 - (reg s y).toNat) % 256 ∧
      OnlyChangesRegs [VF] s t ∧ OnlyChanges [.V] s t) ∧
    (∃ t, exec (.op8xy7 VF y) s = .next t ∧
      (reg t VF).toNat = ((reg s y).toNat + 256 - (reg s VF).toNat) % 256 ∧
      OnlyChangesRegs [VF] s t ∧ OnlyChanges [.V] s t) ∧
    (∃ t, exec (.op8xy6 VF y) s = .next t ∧ (reg t VF).toNat = (reg s VF).toNat / 2 ∧
      OnlyChangesRegs [VF] s t ∧ OnlyChanges [.V] s t) ∧
    (∃ t, exec (.op8xyE VF y) s = .next t ∧ (reg t VF).toNat = 2 * (reg s VF).toNat % 256 ∧
      OnlyChangesRegs [VF] s t ∧ OnlyChanges [.V] s t)

/-- The column `y` = 15, `x` other than 15, of the table in R92: the operand is the `VF` from before the instruction, both in
the result and in the flag. It rests on the spec's D4 (log 10). -/
def Obligations.OldFlagIsTheOperandInRegister15 : Prop :=
  ∀ (s : State) (x : Reg), x ≠ VF →
    (∃ t, exec (.op8xy4 x VF) s = .next t ∧ (reg t x).toNat = ((reg s x).toNat + (reg s VF).toNat) % 256 ∧
      (reg t VF).toNat = (if (reg s x).toNat + (reg s VF).toNat > 255 then 1 else 0) ∧
      OnlyChangesRegs [x, VF] s t ∧ OnlyChanges [.V] s t) ∧
    (∃ t, exec (.op8xy5 x VF) s = .next t ∧ (reg t x).toNat = ((reg s x).toNat + 256 - (reg s VF).toNat) % 256 ∧
      (reg t VF).toNat = (if (reg s x).toNat > (reg s VF).toNat then 1 else 0) ∧
      OnlyChangesRegs [x, VF] s t ∧ OnlyChanges [.V] s t) ∧
    (∃ t, exec (.op8xy7 x VF) s = .next t ∧ (reg t x).toNat = ((reg s VF).toNat + 256 - (reg s x).toNat) % 256 ∧
      (reg t VF).toNat = (if (reg s VF).toNat > (reg s x).toNat then 1 else 0) ∧
      OnlyChangesRegs [x, VF] s t ∧ OnlyChanges [.V] s t)

/-- `Cxkk` (R93): `V[x]` takes the bits of this cycle's random byte that `kk` lets through, for every byte the source may
supply (scheduled or free: an input by the spec's D15, log 2); no flag, nothing else changes. -/
def Obligations.RandomByteIsMaskedByTheImmediate : Prop :=
  Claims.EncodedXKK 0xC .opCxkk ∧
  (∀ (s : State) (i : CycleInput) (is : List CycleInput), rand (s.schedule (i :: is)) = i.rand) ∧
  ∀ (s : State) (x : Reg) (kk : Byte), ∃ t, exec (.opCxkk x kk) s = .next t ∧
    (∀ j, (reg t x).toNat.testBit j = ((rand s).toNat.testBit j && kk.toNat.testBit j)) ∧
    OnlyChangesRegs [x] s t ∧ OnlyChanges [.V] s t

/-! ## Index register and memory -/

/-- `Annn` and `Fx29` (R95, R97): `I` takes `nnn`, or the address of the glyph of the whole byte `V[x]`, which never needs a
reduction; no flag, no memory access, nothing else changes. -/
def Obligations.IndexLoadsSetTheIndexRegister : Prop :=
  Claims.EncodedNNN 0xA .opAnnn ∧ Claims.EncodedXS 0x29 .opFx29 ∧
  ∀ (s : State) (x : Reg) (nnn : Addr),
    (∃ t, exec (.opAnnn nnn) s = .next t ∧ t.I.toNat = nnn.toNat ∧ OnlyChanges [.I] s t) ∧
    (∃ t, exec (.opFx29 x) s = .next t ∧ t.I.toNat = 0x050 + 5 * (reg s x).toNat ∧ OnlyChanges [.I] s t)

/-- `Fx1E` (R96): `I` grows by `V[x]`; `VF` and everything else stay. A sum above 0xFFF wraps by the spec's D3 (log 8). -/
def Obligations.IndexAddWrapsWithoutFlag : Prop :=
  Claims.EncodedXS 0x1E .opFx1E ∧
  ∀ (s : State) (x : Reg), ∃ t, exec (.opFx1E x) s = .next t ∧
    t.I.toNat = (s.I.toNat + (reg s x).toNat) % 4096 ∧ OnlyChanges [.I] s t

/-- `Fx33` (R98): the three decimal digits of `V[x]`, hundreds first, one a byte, at `I`, `I + 1`, `I + 2`; every other
address reads as before and no register changes. The addresses wrap by the spec's D3 (log 8). The premise is the
invariant of memory. -/
def Obligations.DigitsAreStoredHundredsFirst : Prop :=
  Claims.EncodedXS 0x33 .opFx33 ∧
  ∀ (s : State) (x : Reg), s.mem.wf = true → ∃ t, exec (.opFx33 x) s = .next t ∧
    (readByte t (s.I.toNat % 4096)).toNat = (reg s x).toNat / 100 ∧
    (readByte t ((s.I.toNat + 1) % 4096)).toNat = (reg s x).toNat / 10 % 10 ∧
    (readByte t ((s.I.toNat + 2) % 4096)).toNat = (reg s x).toNat % 10 ∧
    (∀ a, a < 4096 → (∀ i, i < 3 → a ≠ (s.I.toNat + i) % 4096) → readByte t a = readByte s a) ∧
    OnlyChanges [.mem] s t

/-- `Fx55` (R99): `V[0]` to `V[x]` at `I`, `I + 1`, and so on, `x + 1` bytes; every other address reads as before, `I` and the
registers stay. The addresses wrap by the spec's D3 (log 8). The premise is the invariant of memory. -/
def Obligations.BlockStoreWritesTheRegistersInOrder : Prop :=
  Claims.EncodedXS 0x55 .opFx55 ∧
  ∀ (s : State) (x : Reg), s.mem.wf = true → ∃ t, exec (.opFx55 x) s = .next t ∧
    (∀ r : Reg, r ≤ x → readByte t ((s.I.toNat + r.val) % 4096) = reg s r) ∧
    (∀ a, a < 4096 → (∀ i, i ≤ x.val → a ≠ (s.I.toNat + i) % 4096) → readByte t a = readByte s a) ∧
    OnlyChanges [.mem] s t

/-- `Fx65` (R100): `V[0]` to `V[x]` take the bytes at `I`, `I + 1`, and so on; the registers above `x`, `I`, memory and
everything else stay. The addresses wrap by the spec's D3 (log 8). -/
def Obligations.BlockLoadReadsTheRegistersInOrder : Prop :=
  Claims.EncodedXS 0x65 .opFx65 ∧
  ∀ (s : State) (x : Reg), ∃ t, exec (.opFx65 x) s = .next t ∧
    (∀ r : Reg, r ≤ x → reg t r = readByte s ((s.I.toNat + r.val) % 4096)) ∧
    (∀ r : Reg, x < r → reg t r = reg s r) ∧ OnlyChanges [.V] s t

/-- `Fx55` followed by `Fx65` with the same `I` and the same `x` restores `V[0]` to `V[x]`, whatever has happened to the
registers between them, and leaves `I` alone both times (R100, S4 of spec/95_test_vectors.md). The addresses wrap by the
spec's D3 (log 8), and the premise is the invariant of memory. -/
def Obligations.BlockStoreThenBlockLoadRestores : Prop :=
  ∀ (s t u : State) (x : Reg), s.mem.wf = true → exec (.opFx55 x) s = .next t → u.mem = t.mem → u.I = s.I →
    ∃ v, exec (.opFx65 x) u = .next v ∧ (∀ r : Reg, r ≤ x → reg v r = reg s r) ∧ t.I = s.I ∧ v.I = s.I

/-! ## Display -/

/-- `00E0` (R105): every cell goes off, and nothing else changes. Every word `0??0`, 0x0000 among them, is this instruction
by the spec's D2 (log 9). -/
def Obligations.ClearScreenTurnsEveryCellOff : Prop :=
  (∀ w : Word, w.op = 0 → w.low = 0 → decode w = .ok .op00E0) ∧
  ∀ s : State, ∃ t, exec .op00E0 s = .next t ∧
    (∀ (r : Fin 32) (c : Fin 64), t.display[r][c] = false) ∧ OnlyChanges [.display] s t

/-- `Dxyn` is its closed form (R106, R107): every cell becomes its old value exclusive-or `s(r, c)`, and `VF` is 1 exactly
when a lit cell was covered; `I`, memory, the other registers and everything else stay. The coordinates are those before
`VF` is written (the spec's D4, log 10), and sprite addresses wrap (its D3, log 8). -/
def Obligations.DrawIsTheClosedForm : Prop :=
  Claims.EncodedDraw ∧
  ∀ (s : State) (x y : Reg) (n : Fin 16), ∃ t, exec (.opDxyn x y n) s = .next t ∧
    (∀ (r : Fin 32) (c : Fin 64), t.display[r][c] = true ↔
      (s.display[r][c] = true ↔ ¬ Claims.SpriteCovers s (reg s x).toNat (reg s y).toNat n.val r.val c.val)) ∧
    ((reg t VF).toNat = 1 ↔ ∃ (r : Fin 32) (c : Fin 64), s.display[r][c] = true ∧
      Claims.SpriteCovers s (reg s x).toNat (reg s y).toNat n.val r.val c.val) ∧
    (reg t VF).toNat ≤ 1 ∧ OnlyChangesRegs [VF] s t ∧ OnlyChanges [.V, .display] s t

/-- Drawing the same sprite at the same place twice restores the display (R106, S5 of spec/95_test_vectors.md), from any
display; on a dark display the first draw leaves `VF` = 0, and the second leaves `VF` = 1 exactly when the sprite has a
set bit. Register 15 as a coordinate is excluded because the first draw overwrites it. -/
def Obligations.DrawingTwiceErases : Prop :=
  ∀ (s t : State) (x y : Reg) (n : Fin 16), x ≠ VF → y ≠ VF → exec (.opDxyn x y n) s = .next t →
    ∃ u, exec (.opDxyn x y n) t = .next u ∧ u.display = s.display ∧
      ((∀ (r : Fin 32) (c : Fin 64), s.display[r][c] = false) →
        (reg t VF).toNat = 0 ∧
        ((reg u VF).toNat = 1 ↔ ∃ i j, i < n.val ∧ j < 8 ∧ Claims.spriteHas s i j = true))

/-! ## Keypad and timers -/

/-- `Fx0A` with a key held (R113): `V[x]` takes the number of the least held key (the spec's D9, log 14), `pc` keeps its
post-fetch value, and nothing else changes. The level is the one given to the cycle (R18, R66): the scheduled one where one
is scheduled, else a free value (log 1). -/
def Obligations.KeyWaitTakesTheLeastHeldKey : Prop :=
  Claims.EncodedXS 0x0A .opFx0A ∧
  (∀ (s : State) (i : CycleInput) (is : List CycleInput), keys (s.schedule (i :: is)) = i.keys) ∧
  ∀ (s : State) (x : Reg), keys s ≠ 0 → ∃ (t : State) (k : Nat), exec (.opFx0A x) s = .next t ∧
    k < 16 ∧ (keys s).toNat.testBit k = true ∧ (∀ j, j < k → (keys s).toNat.testBit j = false) ∧
    (reg t x).toNat = k ∧ OnlyChangesRegs [x] s t ∧ OnlyChanges [.V] s t

/-- The cycle of an `Fx0A` with no key held (R113): `pc` is back at the instruction, the next cycle fetches the same word,
the timers tick, and nothing else changes but `opcode` and the model's own input fields (log 3). The premise `pc` < 4096
is R24's invariant; that the rewind wraps is the spec's D3 (log 8). -/
def Obligations.KeyWaitRepeatsWhileNoKeyIsHeld : Prop :=
  ∀ (s : State) (x : Reg), s.pc.toNat < 4096 → decode (Claims.nextWord s) = .ok (.opFx0A x) → keys s = 0 →
    ∃ t, step s = .next t ∧ t.pc = s.pc ∧ t.opcode = Claims.nextWord s ∧ Claims.nextWord t = Claims.nextWord s ∧
      t.DT.toNat = s.DT.toNat - 1 ∧ t.ST.toNat = s.ST.toNat - 1 ∧
      OnlyChanges [.opcode, .DT, .ST, .inputs, .cycle] s t

/-- The timer instructions (R112, R114, R115), as handlers: `Fx07` copies `DT` before the tick, `Fx15` and `Fx18` copy `V[x]`
into `DT` or `ST`; nothing else changes. What the tick of the same cycle then does is in
`TimersTickInEveryCycle`. -/
def Obligations.TimerInstructionsMoveOneByte : Prop :=
  Claims.EncodedXS 0x07 .opFx07 ∧ Claims.EncodedXS 0x15 .opFx15 ∧ Claims.EncodedXS 0x18 .opFx18 ∧
  ∀ (s : State) (x : Reg),
    (∃ t, exec (.opFx07 x) s = .next t ∧ reg t x = s.DT ∧ OnlyChangesRegs [x] s t ∧ OnlyChanges [.V] s t) ∧
    (∃ t, exec (.opFx15 x) s = .next t ∧ t.DT = reg s x ∧ OnlyChanges [.DT] s t) ∧
    (∃ t, exec (.opFx18 x) s = .next t ∧ t.ST = reg s x ∧ OnlyChanges [.ST] s t)

/-! ## Reset and boot -/

/-- What reset leaves, field by field: `pc` = 0x200 (R140), the source's own; the zeros of every other register, the dark
display and the empty stack, the spec's D11 (log 7); in memory the customary font at 0x050 to 0x09F, the spec's default
GK1 for a parameter (R142, log 5), and 0 at every other address, its D12 (R141, log 6); no input scheduled and the count of
cycles at 0, the model's own choice (log 3). -/
def Obligations.ResetLeavesPcAt0x200FontAndZeros : Prop :=
  State.reset.pc.toNat = 0x200 ∧ (∀ r : Reg, (reg State.reset r).toNat = 0) ∧ State.reset.I.toNat = 0 ∧
  State.reset.sp.val = 0 ∧ (∀ k : Fin 16, State.reset.stack[k].toNat = 0) ∧
  State.reset.DT.toNat = 0 ∧ State.reset.ST.toNat = 0 ∧
  (∀ (r : Fin 32) (c : Fin 64), State.reset.display[r][c] = false) ∧
  State.reset.opcode.toNat = 0 ∧ State.reset.ERR.toNat = 0 ∧
  (∀ (d : Fin 16) (j : Fin 5),
    (readByte State.reset (0x050 + 5 * d.val + j.val)).toNat = (Claims.customaryGlyph d.val).getD j.val 0) ∧
  (∀ a, a < 4096 → ¬ (0x050 ≤ a ∧ a ≤ 0x09F) → (readByte State.reset a).toNat = 0) ∧
  State.reset.inputs = [] ∧ State.reset.cycle = 0

/-- Memory at the first cycle (R141 to R143): the font at 0x050 to 0x09F, an image of at most 3584 bytes verbatim from 0x200,
0 everywhere else (the zero, and that reset writes the font, are the spec's D12, log 5 and 6), registers as at reset; a
longer image is rejected. -/
def Obligations.BootPlacesFontAndImage : Prop :=
  ∀ (font : Vector Byte 80) (rom : List Byte),
    (3584 < rom.length → State.boot font rom = none) ∧
    (rom.length ≤ 3584 → ∃ s, State.boot font rom = some s ∧ OnlyChanges [.mem] State.reset s ∧ s.Inv ∧
      (∀ k : Fin 80, readByte s (0x050 + k.val) = font[k]) ∧
      (∀ (k : Nat) (h : k < rom.length), readByte s (0x200 + k) = rom[k]) ∧
      (∀ a, a < 4096 → ¬ (0x050 ≤ a ∧ a ≤ 0x09F) → ¬ (0x200 ≤ a ∧ a < 0x200 + rom.length) → readByte s a = 0))
end

