-- ==== Sys2Proof/Laws/State.lean ====
section
/-! SUPPORT. One lemma per field per state update, each true by unfolding, so that no later proof unfolds a record update. -/

namespace Sys2Proof.Machine

variable (s : State)

/-! ### writeByte -/

@[simp] theorem writeByte_V (a : Nat) (v : Byte) : (writeByte s a v).V = s.V := rfl
@[simp] theorem writeByte_pc (a : Nat) (v : Byte) : (writeByte s a v).pc = s.pc := rfl
@[simp] theorem writeByte_I (a : Nat) (v : Byte) : (writeByte s a v).I = s.I := rfl
@[simp] theorem writeByte_stack (a : Nat) (v : Byte) : (writeByte s a v).stack = s.stack := rfl
@[simp] theorem writeByte_sp (a : Nat) (v : Byte) : (writeByte s a v).sp = s.sp := rfl
@[simp] theorem writeByte_DT (a : Nat) (v : Byte) : (writeByte s a v).DT = s.DT := rfl
@[simp] theorem writeByte_ST (a : Nat) (v : Byte) : (writeByte s a v).ST = s.ST := rfl
@[simp] theorem writeByte_display (a : Nat) (v : Byte) : (writeByte s a v).display = s.display := rfl
@[simp] theorem writeByte_opcode (a : Nat) (v : Byte) : (writeByte s a v).opcode = s.opcode := rfl
@[simp] theorem writeByte_mem (a : Nat) (v : Byte) : (writeByte s a v).mem = s.mem.write (A12 a) v := rfl
@[simp] theorem writeByte_ERR (a : Nat) (v : Byte) : (writeByte s a v).ERR = s.ERR := rfl
@[simp] theorem writeByte_inputs (a : Nat) (v : Byte) : (writeByte s a v).inputs = s.inputs := rfl
@[simp] theorem writeByte_cycle (a : Nat) (v : Byte) : (writeByte s a v).cycle = s.cycle := rfl

/-! ### setPC -/

@[simp] theorem setPC_V (t : Nat) : (setPC s t).V = s.V := rfl
@[simp] theorem setPC_pc (t : Nat) : (setPC s t).pc = BitVec.ofNat 16 (A12 t) := rfl
@[simp] theorem setPC_I (t : Nat) : (setPC s t).I = s.I := rfl
@[simp] theorem setPC_stack (t : Nat) : (setPC s t).stack = s.stack := rfl
@[simp] theorem setPC_sp (t : Nat) : (setPC s t).sp = s.sp := rfl
@[simp] theorem setPC_DT (t : Nat) : (setPC s t).DT = s.DT := rfl
@[simp] theorem setPC_ST (t : Nat) : (setPC s t).ST = s.ST := rfl
@[simp] theorem setPC_display (t : Nat) : (setPC s t).display = s.display := rfl
@[simp] theorem setPC_opcode (t : Nat) : (setPC s t).opcode = s.opcode := rfl
@[simp] theorem setPC_mem (t : Nat) : (setPC s t).mem = s.mem := rfl
@[simp] theorem setPC_ERR (t : Nat) : (setPC s t).ERR = s.ERR := rfl
@[simp] theorem setPC_inputs (t : Nat) : (setPC s t).inputs = s.inputs := rfl
@[simp] theorem setPC_cycle (t : Nat) : (setPC s t).cycle = s.cycle := rfl

/-! ### setI -/

@[simp] theorem setI_V (t : Nat) : (setI s t).V = s.V := rfl
@[simp] theorem setI_pc (t : Nat) : (setI s t).pc = s.pc := rfl
@[simp] theorem setI_I (t : Nat) : (setI s t).I = BitVec.ofNat 16 (A12 t) := rfl
@[simp] theorem setI_stack (t : Nat) : (setI s t).stack = s.stack := rfl
@[simp] theorem setI_sp (t : Nat) : (setI s t).sp = s.sp := rfl
@[simp] theorem setI_DT (t : Nat) : (setI s t).DT = s.DT := rfl
@[simp] theorem setI_ST (t : Nat) : (setI s t).ST = s.ST := rfl
@[simp] theorem setI_display (t : Nat) : (setI s t).display = s.display := rfl
@[simp] theorem setI_opcode (t : Nat) : (setI s t).opcode = s.opcode := rfl
@[simp] theorem setI_mem (t : Nat) : (setI s t).mem = s.mem := rfl
@[simp] theorem setI_ERR (t : Nat) : (setI s t).ERR = s.ERR := rfl
@[simp] theorem setI_inputs (t : Nat) : (setI s t).inputs = s.inputs := rfl
@[simp] theorem setI_cycle (t : Nat) : (setI s t).cycle = s.cycle := rfl

/-! ### setReg -/

@[simp] theorem setReg_V (x : Reg) (v : Byte) : (setReg s x v).V = s.V.set x v := rfl
@[simp] theorem setReg_pc (x : Reg) (v : Byte) : (setReg s x v).pc = s.pc := rfl
@[simp] theorem setReg_I (x : Reg) (v : Byte) : (setReg s x v).I = s.I := rfl
@[simp] theorem setReg_stack (x : Reg) (v : Byte) : (setReg s x v).stack = s.stack := rfl
@[simp] theorem setReg_sp (x : Reg) (v : Byte) : (setReg s x v).sp = s.sp := rfl
@[simp] theorem setReg_DT (x : Reg) (v : Byte) : (setReg s x v).DT = s.DT := rfl
@[simp] theorem setReg_ST (x : Reg) (v : Byte) : (setReg s x v).ST = s.ST := rfl
@[simp] theorem setReg_display (x : Reg) (v : Byte) : (setReg s x v).display = s.display := rfl
@[simp] theorem setReg_opcode (x : Reg) (v : Byte) : (setReg s x v).opcode = s.opcode := rfl
@[simp] theorem setReg_mem (x : Reg) (v : Byte) : (setReg s x v).mem = s.mem := rfl
@[simp] theorem setReg_ERR (x : Reg) (v : Byte) : (setReg s x v).ERR = s.ERR := rfl
@[simp] theorem setReg_inputs (x : Reg) (v : Byte) : (setReg s x v).inputs = s.inputs := rfl
@[simp] theorem setReg_cycle (x : Reg) (v : Byte) : (setReg s x v).cycle = s.cycle := rfl

/-! ### setFlag -/

@[simp] theorem setFlag_V (b : Bool) : (setFlag s b).V = s.V.set VF (if b then 1 else 0) := rfl
@[simp] theorem setFlag_pc (b : Bool) : (setFlag s b).pc = s.pc := rfl
@[simp] theorem setFlag_I (b : Bool) : (setFlag s b).I = s.I := rfl
@[simp] theorem setFlag_stack (b : Bool) : (setFlag s b).stack = s.stack := rfl
@[simp] theorem setFlag_sp (b : Bool) : (setFlag s b).sp = s.sp := rfl
@[simp] theorem setFlag_DT (b : Bool) : (setFlag s b).DT = s.DT := rfl
@[simp] theorem setFlag_ST (b : Bool) : (setFlag s b).ST = s.ST := rfl
@[simp] theorem setFlag_display (b : Bool) : (setFlag s b).display = s.display := rfl
@[simp] theorem setFlag_opcode (b : Bool) : (setFlag s b).opcode = s.opcode := rfl
@[simp] theorem setFlag_mem (b : Bool) : (setFlag s b).mem = s.mem := rfl
@[simp] theorem setFlag_ERR (b : Bool) : (setFlag s b).ERR = s.ERR := rfl
@[simp] theorem setFlag_inputs (b : Bool) : (setFlag s b).inputs = s.inputs := rfl
@[simp] theorem setFlag_cycle (b : Bool) : (setFlag s b).cycle = s.cycle := rfl

/-! ### setDT -/

@[simp] theorem setDT_V (v : Byte) : (setDT s v).V = s.V := rfl
@[simp] theorem setDT_pc (v : Byte) : (setDT s v).pc = s.pc := rfl
@[simp] theorem setDT_I (v : Byte) : (setDT s v).I = s.I := rfl
@[simp] theorem setDT_stack (v : Byte) : (setDT s v).stack = s.stack := rfl
@[simp] theorem setDT_sp (v : Byte) : (setDT s v).sp = s.sp := rfl
@[simp] theorem setDT_DT (v : Byte) : (setDT s v).DT = v := rfl
@[simp] theorem setDT_ST (v : Byte) : (setDT s v).ST = s.ST := rfl
@[simp] theorem setDT_display (v : Byte) : (setDT s v).display = s.display := rfl
@[simp] theorem setDT_opcode (v : Byte) : (setDT s v).opcode = s.opcode := rfl
@[simp] theorem setDT_mem (v : Byte) : (setDT s v).mem = s.mem := rfl
@[simp] theorem setDT_ERR (v : Byte) : (setDT s v).ERR = s.ERR := rfl
@[simp] theorem setDT_inputs (v : Byte) : (setDT s v).inputs = s.inputs := rfl
@[simp] theorem setDT_cycle (v : Byte) : (setDT s v).cycle = s.cycle := rfl

/-! ### setST -/

@[simp] theorem setST_V (v : Byte) : (setST s v).V = s.V := rfl
@[simp] theorem setST_pc (v : Byte) : (setST s v).pc = s.pc := rfl
@[simp] theorem setST_I (v : Byte) : (setST s v).I = s.I := rfl
@[simp] theorem setST_stack (v : Byte) : (setST s v).stack = s.stack := rfl
@[simp] theorem setST_sp (v : Byte) : (setST s v).sp = s.sp := rfl
@[simp] theorem setST_DT (v : Byte) : (setST s v).DT = s.DT := rfl
@[simp] theorem setST_ST (v : Byte) : (setST s v).ST = v := rfl
@[simp] theorem setST_display (v : Byte) : (setST s v).display = s.display := rfl
@[simp] theorem setST_opcode (v : Byte) : (setST s v).opcode = s.opcode := rfl
@[simp] theorem setST_mem (v : Byte) : (setST s v).mem = s.mem := rfl
@[simp] theorem setST_ERR (v : Byte) : (setST s v).ERR = s.ERR := rfl
@[simp] theorem setST_inputs (v : Byte) : (setST s v).inputs = s.inputs := rfl
@[simp] theorem setST_cycle (v : Byte) : (setST s v).cycle = s.cycle := rfl

/-! ### setDisplay -/

@[simp] theorem setDisplay_V (d : Display) : (setDisplay s d).V = s.V := rfl
@[simp] theorem setDisplay_pc (d : Display) : (setDisplay s d).pc = s.pc := rfl
@[simp] theorem setDisplay_I (d : Display) : (setDisplay s d).I = s.I := rfl
@[simp] theorem setDisplay_stack (d : Display) : (setDisplay s d).stack = s.stack := rfl
@[simp] theorem setDisplay_sp (d : Display) : (setDisplay s d).sp = s.sp := rfl
@[simp] theorem setDisplay_DT (d : Display) : (setDisplay s d).DT = s.DT := rfl
@[simp] theorem setDisplay_ST (d : Display) : (setDisplay s d).ST = s.ST := rfl
@[simp] theorem setDisplay_display (d : Display) : (setDisplay s d).display = d := rfl
@[simp] theorem setDisplay_opcode (d : Display) : (setDisplay s d).opcode = s.opcode := rfl
@[simp] theorem setDisplay_mem (d : Display) : (setDisplay s d).mem = s.mem := rfl
@[simp] theorem setDisplay_ERR (d : Display) : (setDisplay s d).ERR = s.ERR := rfl
@[simp] theorem setDisplay_inputs (d : Display) : (setDisplay s d).inputs = s.inputs := rfl
@[simp] theorem setDisplay_cycle (d : Display) : (setDisplay s d).cycle = s.cycle := rfl

/-! ### writeFlagThenResult -/

@[simp] theorem writeFlagThenResult_V (b : Bool) (x : Reg) (v : Byte) : (writeFlagThenResult s b x v).V = (s.V.set VF (if b then 1 else 0)).set x v := rfl
@[simp] theorem writeFlagThenResult_pc (b : Bool) (x : Reg) (v : Byte) : (writeFlagThenResult s b x v).pc = s.pc := rfl
@[simp] theorem writeFlagThenResult_I (b : Bool) (x : Reg) (v : Byte) : (writeFlagThenResult s b x v).I = s.I := rfl
@[simp] theorem writeFlagThenResult_stack (b : Bool) (x : Reg) (v : Byte) : (writeFlagThenResult s b x v).stack = s.stack := rfl
@[simp] theorem writeFlagThenResult_sp (b : Bool) (x : Reg) (v : Byte) : (writeFlagThenResult s b x v).sp = s.sp := rfl
@[simp] theorem writeFlagThenResult_DT (b : Bool) (x : Reg) (v : Byte) : (writeFlagThenResult s b x v).DT = s.DT := rfl
@[simp] theorem writeFlagThenResult_ST (b : Bool) (x : Reg) (v : Byte) : (writeFlagThenResult s b x v).ST = s.ST := rfl
@[simp] theorem writeFlagThenResult_display (b : Bool) (x : Reg) (v : Byte) : (writeFlagThenResult s b x v).display = s.display := rfl
@[simp] theorem writeFlagThenResult_opcode (b : Bool) (x : Reg) (v : Byte) : (writeFlagThenResult s b x v).opcode = s.opcode := rfl
@[simp] theorem writeFlagThenResult_mem (b : Bool) (x : Reg) (v : Byte) : (writeFlagThenResult s b x v).mem = s.mem := rfl
@[simp] theorem writeFlagThenResult_ERR (b : Bool) (x : Reg) (v : Byte) : (writeFlagThenResult s b x v).ERR = s.ERR := rfl
@[simp] theorem writeFlagThenResult_inputs (b : Bool) (x : Reg) (v : Byte) : (writeFlagThenResult s b x v).inputs = s.inputs := rfl
@[simp] theorem writeFlagThenResult_cycle (b : Bool) (x : Reg) (v : Byte) : (writeFlagThenResult s b x v).cycle = s.cycle := rfl

/-! ### tick -/

@[simp] theorem tick_V : (tick s).V = s.V := rfl
@[simp] theorem tick_pc : (tick s).pc = s.pc := rfl
@[simp] theorem tick_I : (tick s).I = s.I := rfl
@[simp] theorem tick_stack : (tick s).stack = s.stack := rfl
@[simp] theorem tick_sp : (tick s).sp = s.sp := rfl
@[simp] theorem tick_DT : (tick s).DT = countDown s.DT := rfl
@[simp] theorem tick_ST : (tick s).ST = countDown s.ST := rfl
@[simp] theorem tick_display : (tick s).display = s.display := rfl
@[simp] theorem tick_opcode : (tick s).opcode = s.opcode := rfl
@[simp] theorem tick_mem : (tick s).mem = s.mem := rfl
@[simp] theorem tick_ERR : (tick s).ERR = s.ERR := rfl
@[simp] theorem tick_inputs : (tick s).inputs = s.inputs := rfl
@[simp] theorem tick_cycle : (tick s).cycle = s.cycle := rfl

/-! ### nextInput -/

@[simp] theorem nextInput_V : (nextInput s).V = s.V := rfl
@[simp] theorem nextInput_pc : (nextInput s).pc = s.pc := rfl
@[simp] theorem nextInput_I : (nextInput s).I = s.I := rfl
@[simp] theorem nextInput_stack : (nextInput s).stack = s.stack := rfl
@[simp] theorem nextInput_sp : (nextInput s).sp = s.sp := rfl
@[simp] theorem nextInput_DT : (nextInput s).DT = s.DT := rfl
@[simp] theorem nextInput_ST : (nextInput s).ST = s.ST := rfl
@[simp] theorem nextInput_display : (nextInput s).display = s.display := rfl
@[simp] theorem nextInput_opcode : (nextInput s).opcode = s.opcode := rfl
@[simp] theorem nextInput_mem : (nextInput s).mem = s.mem := rfl
@[simp] theorem nextInput_ERR : (nextInput s).ERR = s.ERR := rfl
@[simp] theorem nextInput_inputs : (nextInput s).inputs = s.inputs.tail := rfl
@[simp] theorem nextInput_cycle : (nextInput s).cycle = s.cycle + 1 := rfl

/-! ### endCycle -/

@[simp] theorem endCycle_V : (endCycle s).V = s.V := rfl
@[simp] theorem endCycle_pc : (endCycle s).pc = s.pc := rfl
@[simp] theorem endCycle_I : (endCycle s).I = s.I := rfl
@[simp] theorem endCycle_stack : (endCycle s).stack = s.stack := rfl
@[simp] theorem endCycle_sp : (endCycle s).sp = s.sp := rfl
@[simp] theorem endCycle_DT : (endCycle s).DT = countDown s.DT := rfl
@[simp] theorem endCycle_ST : (endCycle s).ST = countDown s.ST := rfl
@[simp] theorem endCycle_display : (endCycle s).display = s.display := rfl
@[simp] theorem endCycle_opcode : (endCycle s).opcode = s.opcode := rfl
@[simp] theorem endCycle_mem : (endCycle s).mem = s.mem := rfl
@[simp] theorem endCycle_ERR : (endCycle s).ERR = s.ERR := rfl
@[simp] theorem endCycle_inputs : (endCycle s).inputs = s.inputs.tail := rfl
@[simp] theorem endCycle_cycle : (endCycle s).cycle = s.cycle + 1 := rfl

/-! ### fetch -/

@[simp] theorem fetch_V : (fetch s).V = s.V := rfl
@[simp] theorem fetch_pc : (fetch s).pc = BitVec.ofNat 16 (A12 (s.pc.toNat + 2)) := rfl
@[simp] theorem fetch_I : (fetch s).I = s.I := rfl
@[simp] theorem fetch_stack : (fetch s).stack = s.stack := rfl
@[simp] theorem fetch_sp : (fetch s).sp = s.sp := rfl
@[simp] theorem fetch_DT : (fetch s).DT = s.DT := rfl
@[simp] theorem fetch_ST : (fetch s).ST = s.ST := rfl
@[simp] theorem fetch_display : (fetch s).display = s.display := rfl
@[simp] theorem fetch_opcode : (fetch s).opcode = readWord s s.pc.toNat := rfl
@[simp] theorem fetch_mem : (fetch s).mem = s.mem := rfl
@[simp] theorem fetch_ERR : (fetch s).ERR = s.ERR := rfl
@[simp] theorem fetch_inputs : (fetch s).inputs = s.inputs := rfl
@[simp] theorem fetch_cycle : (fetch s).cycle = s.cycle := rfl

/-! ### raise, decodeError -/

@[simp] theorem raise_V (e : ErrorEvent) : (raise e s).V = s.V := rfl
@[simp] theorem raise_pc (e : ErrorEvent) : (raise e s).pc = s.pc := rfl
@[simp] theorem raise_I (e : ErrorEvent) : (raise e s).I = s.I := rfl
@[simp] theorem raise_stack (e : ErrorEvent) : (raise e s).stack = s.stack := rfl
@[simp] theorem raise_sp (e : ErrorEvent) : (raise e s).sp = s.sp := rfl
@[simp] theorem raise_DT (e : ErrorEvent) : (raise e s).DT = s.DT := rfl
@[simp] theorem raise_ST (e : ErrorEvent) : (raise e s).ST = s.ST := rfl
@[simp] theorem raise_display (e : ErrorEvent) : (raise e s).display = s.display := rfl
@[simp] theorem raise_opcode (e : ErrorEvent) : (raise e s).opcode = s.opcode := rfl
@[simp] theorem raise_mem (e : ErrorEvent) : (raise e s).mem = s.mem := rfl
@[simp] theorem raise_ERR (e : ErrorEvent) : (raise e s).ERR = s.ERR ||| (1#3 <<< errorBit e) := rfl
@[simp] theorem raise_inputs (e : ErrorEvent) : (raise e s).inputs = s.inputs := rfl
@[simp] theorem raise_cycle (e : ErrorEvent) : (raise e s).cycle = s.cycle := rfl
@[simp] theorem decodeError_V : (decodeError s).V = s.V := rfl
@[simp] theorem decodeError_pc : (decodeError s).pc = s.pc := rfl
@[simp] theorem decodeError_I : (decodeError s).I = s.I := rfl
@[simp] theorem decodeError_stack : (decodeError s).stack = s.stack := rfl
@[simp] theorem decodeError_sp : (decodeError s).sp = s.sp := rfl
@[simp] theorem decodeError_DT : (decodeError s).DT = s.DT := rfl
@[simp] theorem decodeError_ST : (decodeError s).ST = s.ST := rfl
@[simp] theorem decodeError_display : (decodeError s).display = s.display := rfl
@[simp] theorem decodeError_opcode : (decodeError s).opcode = s.opcode := rfl
@[simp] theorem decodeError_mem : (decodeError s).mem = s.mem := rfl
@[simp] theorem decodeError_ERR : (decodeError s).ERR = s.ERR ||| 1#3 := rfl
@[simp] theorem decodeError_inputs : (decodeError s).inputs = s.inputs := rfl
@[simp] theorem decodeError_cycle : (decodeError s).cycle = s.cycle := rfl

/-! ### skipIf, rewind -/

@[simp] theorem skipIf_V (c : Bool) : (skipIf s c).V = s.V := by cases c <;> rfl
@[simp] theorem skipIf_I (c : Bool) : (skipIf s c).I = s.I := by cases c <;> rfl
@[simp] theorem skipIf_stack (c : Bool) : (skipIf s c).stack = s.stack := by cases c <;> rfl
@[simp] theorem skipIf_sp (c : Bool) : (skipIf s c).sp = s.sp := by cases c <;> rfl
@[simp] theorem skipIf_DT (c : Bool) : (skipIf s c).DT = s.DT := by cases c <;> rfl
@[simp] theorem skipIf_ST (c : Bool) : (skipIf s c).ST = s.ST := by cases c <;> rfl
@[simp] theorem skipIf_display (c : Bool) : (skipIf s c).display = s.display := by cases c <;> rfl
@[simp] theorem skipIf_opcode (c : Bool) : (skipIf s c).opcode = s.opcode := by cases c <;> rfl
@[simp] theorem skipIf_mem (c : Bool) : (skipIf s c).mem = s.mem := by cases c <;> rfl
@[simp] theorem skipIf_ERR (c : Bool) : (skipIf s c).ERR = s.ERR := by cases c <;> rfl
@[simp] theorem skipIf_inputs (c : Bool) : (skipIf s c).inputs = s.inputs := by cases c <;> rfl
@[simp] theorem skipIf_cycle (c : Bool) : (skipIf s c).cycle = s.cycle := by cases c <;> rfl
@[simp] theorem skipIf_pc (c : Bool) : (skipIf s c).pc = if c then BitVec.ofNat 16 (A12 (s.pc.toNat + 2)) else s.pc := by
  cases c <;> rfl
@[simp] theorem rewind_V : (rewind s).V = s.V := rfl
@[simp] theorem rewind_pc : (rewind s).pc = BitVec.ofNat 16 (A12 (s.pc - 2).toNat) := rfl
@[simp] theorem rewind_I : (rewind s).I = s.I := rfl
@[simp] theorem rewind_stack : (rewind s).stack = s.stack := rfl
@[simp] theorem rewind_sp : (rewind s).sp = s.sp := rfl
@[simp] theorem rewind_DT : (rewind s).DT = s.DT := rfl
@[simp] theorem rewind_ST : (rewind s).ST = s.ST := rfl
@[simp] theorem rewind_display : (rewind s).display = s.display := rfl
@[simp] theorem rewind_opcode : (rewind s).opcode = s.opcode := rfl
@[simp] theorem rewind_mem : (rewind s).mem = s.mem := rfl
@[simp] theorem rewind_ERR : (rewind s).ERR = s.ERR := rfl
@[simp] theorem rewind_inputs : (rewind s).inputs = s.inputs := rfl
@[simp] theorem rewind_cycle : (rewind s).cycle = s.cycle := rfl

end Sys2Proof.Machine
end

