-- ==== Sys2Proof/Laws/Memory.lean ====
section
/-! SUPPORT. The laws of memory: a write reads back and leaves every other address alone, and every operation keeps the
canonical form. -/

namespace Sys2Proof.Machine

theorem Memory.read_cons (a : Nat) (v : Byte) (m : Memory) (b : Nat) :
    Memory.read ((a, v) :: m) b = if a = b then v else Memory.read m b := rfl

/-- A memory whose cells all lie at `lo` or above reads its reset content below. -/
theorem Memory.read_below {m : Memory} : ∀ {lo : Nat}, Memory.wfFrom lo m = true → ∀ {b : Nat}, b < lo →
    Memory.read m b = Memory.initial b := by
  induction m with
  | nil => intros; rfl
  | cons c m ih =>
    obtain ⟨a, v⟩ := c
    intro lo h b hb
    simp only [Memory.wfFrom, Bool.and_eq_true, decide_eq_true_eq] at h
    rw [Memory.read_cons, if_neg (by omega)]
    exact ih h.2 (by omega)

theorem Memory.read_consCell (a : Nat) (v : Byte) (m : Memory) (b : Nat)
    (h : b = a → Memory.read m b = Memory.initial b) :
    Memory.read (Memory.cons a v m) b = if b = a then v else Memory.read m b := by
  unfold Memory.cons
  split
  · rename_i hv
    split
    · rename_i hb; subst hb; rw [h rfl, hv]
    · rfl
  · rw [Memory.read_cons]; simp only [eq_comm]

/-- Reading after a write: the byte written at its address, what was there before anywhere else. -/
theorem Memory.read_write {m : Memory} : ∀ {lo : Nat}, Memory.wfFrom lo m = true → ∀ (a : Nat) (v : Byte) (b : Nat),
    Memory.read (Memory.write m a v) b = if b = a then v else Memory.read m b := by
  induction m with
  | nil => intro _ _ a v b; exact Memory.read_consCell a v [] b fun _ => rfl
  | cons c m ih =>
    obtain ⟨c, w⟩ := c
    intro lo h a v b
    have h' := h
    simp only [Memory.wfFrom, Bool.and_eq_true, decide_eq_true_eq] at h'
    simp only [Memory.write]
    split
    · rename_i hac
      refine Memory.read_consCell a v _ b fun hb => ?_
      rw [Memory.read_cons, if_neg (by omega)]
      exact Memory.read_below h'.2 (by omega)
    · split
      · rename_i _ hac
        subst hac
        rw [Memory.read_consCell a v m b fun hb => Memory.read_below h'.2 (by omega), Memory.read_cons]
        by_cases hb : b = a
        · simp [hb]
        · simp [hb, Ne.symm hb]
      · rename_i h1 h2
        rw [Memory.read_cons, Memory.read_cons, ih h'.2]
        by_cases hb : b = a
        · subst hb; simp [Ne.symm h2]
        · simp [hb]

/-- A write leaves every other address alone, in whatever form the list is. -/
theorem Memory.read_write_of_ne (m : Memory) (a : Nat) (v : Byte) {b : Nat} (hb : b ≠ a) :
    Memory.read (Memory.write m a v) b = Memory.read m b := by
  have hc : ∀ m' : Memory, Memory.read (Memory.cons a v m') b = Memory.read m' b := fun m' => by
    rw [Memory.read_consCell a v m' b fun h => absurd h hb, if_neg hb]
  induction m with
  | nil => exact hc []
  | cons c m ih =>
    obtain ⟨c, w⟩ := c
    simp only [Memory.write]
    split
    · exact hc _
    · split
      · rename_i _ hac; subst hac
        rw [hc, Memory.read_cons, if_neg (Ne.symm hb)]
      · rw [Memory.read_cons, Memory.read_cons, ih]

theorem Memory.wfFrom_mono {m : Memory} {lo lo' : Nat} (h : Memory.wfFrom lo m = true) (hl : lo' ≤ lo) :
    Memory.wfFrom lo' m = true := by
  cases m with
  | nil => rfl
  | cons c m =>
    simp only [Memory.wfFrom, Bool.and_eq_true, decide_eq_true_eq] at h ⊢
    exact ⟨⟨by omega, h.1.2⟩, h.2⟩

theorem Memory.wfFrom_consCell {m : Memory} {lo a : Nat} {v : Byte} (h : Memory.wfFrom (a + 1) m = true)
    (hl : lo ≤ a) (ha : a < 4096) : Memory.wfFrom lo (Memory.cons a v m) = true := by
  unfold Memory.cons
  split
  · exact Memory.wfFrom_mono h (by omega)
  · simp only [Memory.wfFrom, Bool.and_eq_true, decide_eq_true_eq]
    exact ⟨⟨hl, ha, ‹_›⟩, h⟩

theorem Memory.wfFrom_write {m : Memory} : ∀ {lo : Nat}, Memory.wfFrom lo m = true → ∀ {a : Nat}, lo ≤ a → a < 4096 →
    ∀ v : Byte, Memory.wfFrom lo (Memory.write m a v) = true := by
  induction m with
  | nil => intro lo _ a hl ha v; exact Memory.wfFrom_consCell rfl hl ha
  | cons c m ih =>
    obtain ⟨c, w⟩ := c
    intro lo h a hl ha v
    have h' := h
    simp only [Memory.wfFrom, Bool.and_eq_true, decide_eq_true_eq] at h'
    simp only [Memory.write]
    split
    · refine Memory.wfFrom_consCell ?_ hl ha
      simp only [Memory.wfFrom, Bool.and_eq_true, decide_eq_true_eq]
      exact ⟨⟨by omega, h'.1.2⟩, h'.2⟩
    · split
      · rename_i _ hac; subst hac
        exact Memory.wfFrom_consCell h'.2 hl ha
      · simp only [Memory.wfFrom, Bool.and_eq_true, decide_eq_true_eq]
        exact ⟨h'.1, ih h'.2 (by omega) ha v⟩

/-- Every write inside the 4096 bytes keeps the canonical form. -/
theorem Memory.wf_write {m : Memory} (h : m.wf = true) {a : Nat} (ha : a < 4096) (v : Byte) :
    (Memory.write m a v).wf = true := Memory.wfFrom_write h (Nat.zero_le a) ha v

theorem State.reset_mem_wf : State.reset.mem.wf = true := rfl

theorem A12_lt (a : Nat) : A12 a < 4096 := Nat.mod_lt a (by decide)

theorem A12_of_lt {a : Nat} (h : a < 4096) : A12 a = a := Nat.mod_eq_of_lt h

/-- `MemWrite` keeps the canonical form. -/
theorem writeByte_wf {s : State} (h : s.mem.wf = true) (a : Nat) (v : Byte) : (writeByte s a v).mem.wf = true :=
  Memory.wf_write h (A12_lt a) v

/-- An address counts modulo 4096. -/
theorem readByte_mod (s : State) (a : Nat) : readByte s (a % 4096) = readByte s a := by
  rw [readByte, readByte, A12, A12, Nat.mod_mod]

/-- `MemRead` after `MemWrite`: the same address modulo 4096 gives the byte written, any other what was there. -/
theorem readByte_writeByte {s : State} (h : s.mem.wf = true) (a : Nat) (v : Byte) (b : Nat) :
    readByte (writeByte s a v) b = if b % 4096 = a % 4096 then v else readByte s b :=
  Memory.read_write h (A12 a) v (A12 b)

/-- `MemWrite` leaves every other address alone. -/
theorem readByte_writeByte_of_ne (s : State) (a : Nat) (v : Byte) {b : Nat} (hb : b % 4096 ≠ a % 4096) :
    readByte (writeByte s a v) b = readByte s b :=
  Memory.read_write_of_ne s.mem (A12 a) v hb

/-- `MemRead` depends on memory alone. -/
theorem readByte_congr {s t : State} (h : t.mem = s.mem) (a : Nat) : readByte t a = readByte s a := by
  rw [readByte, readByte, h]

end Sys2Proof.Machine
end

