-- ==== Sys2Proof/Laws/Ops.lean ====
section
/-! SUPPORT. One lemma per shared operation that says once what it can do: registers and flags, `pc` and `I`, the call
stack, error events, the timers, fetch, the block transfers. -/

namespace Sys2Proof.Machine

/-! ## Registers and flags -/

theorem reg_setReg (s : State) (x : Reg) (v : Byte) (r : Reg) :
    reg (setReg s x v) r = if r = x then v else reg s r := by
  simp only [reg, setReg_V, Fin.getElem_fin, Vector.getElem_set]
  by_cases h : r = x
  · simp [h]
  · simp [h, Ne.symm (fun e => h (Fin.ext e) : r.val ≠ x.val)]

theorem reg_congr {s t : State} (h : t.V = s.V) (r : Reg) : reg t r = reg s r := by rw [reg, reg, h]

/-- The flag is 0 or 1, and no other register changes. -/
theorem reg_setFlag (s : State) (b : Bool) (r : Reg) :
    reg (setFlag s b) r = if r = VF then (if b then 1 else 0) else reg s r := reg_setReg s VF _ r

/-- The result wins over the flag where both go to register 15 (spec/40_cycle.md R64 (b)). -/
theorem reg_writeFlagThenResult (s : State) (b : Bool) (x : Reg) (v : Byte) (r : Reg) :
    reg (writeFlagThenResult s b x v) r =
      if r = x then v else if r = VF then (if b then 1 else 0) else reg s r := by
  rw [writeFlagThenResult, reg_setReg, reg_setFlag]

/-! ## `pc` and `I` -/

theorem toNat_ofNat_A12 (t : Nat) : (BitVec.ofNat 16 (A12 t)).toNat = t % 4096 := by
  have := A12_lt t
  rw [BitVec.toNat_ofNat, Nat.mod_eq_of_lt (by omega), A12]

/-- Every write of `pc` is reduced modulo 4096. -/
theorem setPC_toNat (s : State) (t : Nat) : (setPC s t).pc.toNat = t % 4096 := toNat_ofNat_A12 t

/-- Every write of `I` is reduced modulo 4096. -/
theorem setI_toNat (s : State) (t : Nat) : (setI s t).I.toNat = t % 4096 := toNat_ofNat_A12 t

theorem rewind_toNat (s : State) : (rewind s).pc.toNat = (s.pc.toNat + 4094) % 4096 := by
  rw [rewind, setPC_toNat]
  bv_omega

theorem skipIf_toNat (s : State) (c : Bool) :
    (skipIf s c).pc.toNat = if c then (s.pc.toNat + 2) % 4096 else s.pc.toNat := by
  cases c
  · rfl
  · exact setPC_toNat s _

/-! ## The call stack -/

/-- Below 16 entries a push fills the slot `sp` indexes and counts it. -/
theorem push_of_lt {s : State} (a : Word) (h : s.sp.val < 16) :
    push s a = some { s with stack := s.stack.set s.sp.val a, sp := ⟨s.sp.val + 1, by omega⟩ } := dif_pos h

theorem push_of_full {s : State} (a : Word) (h : s.sp.val = 16) : push s a = none := dif_neg (by omega)

/-- With an entry on it the stack gives the slot below `sp` and keeps every slot. -/
theorem pop_of_pos {s : State} (h : 0 < s.sp.val) :
    pop s = some (s.stack[s.sp.val - 1]'(by omega), { s with sp := ⟨s.sp.val - 1, by omega⟩ }) := dif_pos h

theorem pop_of_empty {s : State} (h : s.sp.val = 0) : pop s = none := dif_neg (by omega)

/-- What a push can answer. -/
theorem push_cases {s s1 : State} {a : Word} (h : push s a = some s1) :
    ∃ h : s.sp.val < 16, s1 = { s with stack := s.stack.set s.sp.val a, sp := ⟨s.sp.val + 1, by omega⟩ } := by
  unfold push at h
  split at h
  · exact ⟨‹_›, (Option.some.inj h).symm⟩
  · cases h

/-- What a pop can answer. -/
theorem pop_cases {s s1 : State} {a : Word} (h : pop s = some (a, s1)) :
    ∃ h : 0 < s.sp.val, a = s.stack[s.sp.val - 1]'(by omega) ∧ s1 = { s with sp := ⟨s.sp.val - 1, by omega⟩ } := by
  unfold pop at h
  split at h
  · cases h; exact ⟨‹_›, rfl, rfl⟩
  · cases h

/-! ## Error events -/

/-- An event sets its own bit and leaves the others. -/
theorem raise_getLsbD (e : ErrorEvent) (s : State) (k : Nat) :
    (raise e s).ERR.getLsbD k = (s.ERR.getLsbD k || decide (k = errorBit e)) := by
  rw [raise_ERR, BitVec.getLsbD_or]
  congr 1
  rcases k with _ | _ | _ | k <;> cases e <;> simp [errorBit]

/-! ## Timers -/

/-- One decrement, floor 0. -/
theorem countDown_toNat (t : Byte) : (countDown t).toNat = t.toNat - 1 := by
  unfold countDown
  split
  · rename_i h; subst h; rfl
  · rename_i h
    have : t.toNat ≠ 0 := fun e => h (BitVec.eq_of_toNat_eq e)
    bv_omega

/-! ## Fetch -/

/-- The fetched word is big-endian (spec/20_memory.md R32). -/
theorem readWord_toNat (s : State) (a : Nat) :
    (readWord s a).toNat = 256 * (readByte s a).toNat + (readByte s (a + 1)).toNat := by
  have := (readByte s (a + 1)).isLt
  rw [readWord, BitVec.toNat_append, Nat.shiftLeft_eq, ← Nat.shiftLeft_eq, ← Nat.shiftLeft_add_eq_or_of_lt this,
    Nat.shiftLeft_eq]
  omega

theorem fetch_pc_toNat (s : State) : (fetch s).pc.toNat = (s.pc.toNat + 2) % 4096 := toNat_ofNat_A12 _

/-! ## Stores and loads through `I` -/

theorem effectiveAddress_eq (s : State) (i : Nat) : effectiveAddress s i = (s.I.toNat + i) % 4096 := rfl

theorem storeBlock_V (s : State) (n : Nat) : (storeBlock s n).V = s.V := by
  induction n with
  | zero => rfl
  | succ n ih => exact ih

theorem loadBlock_mem (s : State) (n : Nat) : (loadBlock s n).mem = s.mem := by
  induction n with
  | zero => rfl
  | succ n ih => exact ih

/-- A block store touches memory only. -/
theorem storeBlock_eq (s : State) (n : Nat) : storeBlock s n = { s with mem := (storeBlock s n).mem } := by
  induction n with
  | zero => rfl
  | succ n ih => rw [storeBlock, ih]; rfl

/-- A block load touches general registers only. -/
theorem loadBlock_eq (s : State) (n : Nat) : loadBlock s n = { s with V := (loadBlock s n).V } := by
  induction n with
  | zero => rfl
  | succ n ih => rw [loadBlock, ih]; rfl

theorem storeBlock_wf {s : State} (h : s.mem.wf = true) (n : Nat) : (storeBlock s n).mem.wf = true := by
  induction n with
  | zero => exact h
  | succ n ih => exact writeByte_wf ih _ _

theorem storeDigits_wf {s : State} (h : s.mem.wf = true) (v : Byte) : (storeDigits s v).mem.wf = true :=
  writeByte_wf (writeByte_wf (writeByte_wf h _ _) _ _) _ _

end Sys2Proof.Machine
end

