-- ==== Sys2Proof/Laws/Cycle.lean ====
section
/-! SUPPORT. What a step can do, said once: the handler of the decoded instruction, or a decode error, on the state after
the fetch, and then the end of the cycle. -/

namespace Sys2Proof.Machine

/-- A step of a word that is an instruction. -/
theorem step_of_decode {s : State} {i : Instr} (h : decode (readWord s s.pc.toNat) = .ok i) :
    step s = finish (exec i (fetch s)) := by
  rw [step, cycle, execute, fetch_opcode, h]

/-- A step of a word that is none. -/
theorem step_of_decodeError {s : State} {e : DecodeError} (h : decode (readWord s s.pc.toNat) = .error e) :
    step s = .next (endCycle (decodeError (fetch s))) := by
  rw [step, cycle, execute, fetch_opcode, h]
  rfl

/-- The end of the cycle answers a next state where the handler does, and from it. -/
theorem finish_next {o : Host.Outcome State Fault Refusal} {t : State} (h : finish o = .next t) :
    ∃ u, o = .next u ∧ t = endCycle u := by
  cases o with
  | next u => exact ⟨u, rfl, (Host.Outcome.next.inj h).symm⟩
  | fault r => cases h
  | refused r => cases h

/-- Everything a step can do. -/
theorem step_cases {s t : State} (h : step s = .next t) :
    (∃ i u, decode (readWord s s.pc.toNat) = .ok i ∧ exec i (fetch s) = .next u ∧ t = endCycle u) ∨
    (∃ e, decode (readWord s s.pc.toNat) = .error e ∧ t = endCycle (decodeError (fetch s))) := by
  cases hd : decode (readWord s s.pc.toNat) with
  | ok i =>
    rw [step_of_decode hd] at h
    obtain ⟨u, hu, rfl⟩ := finish_next h
    exact .inl ⟨i, u, rfl, hu, rfl⟩
  | error e =>
    rw [step_of_decodeError hd] at h
    exact .inr ⟨e, rfl, (Host.Outcome.next.inj h).symm⟩

end Sys2Proof.Machine
end

