-- ==== Sys2Proof/Laws/PerInstr.lean ====
section
/-! SUPPORT. Statements made per instruction. The family CanonicalEncoding: the encoder's word is the pattern that
spec/opcode_table.json prints for the instruction's row (its canonical mask and match, spec/30_encoding.md R55). -/

namespace Sys2Proof

/-- The fixed bits of the canonical pattern of the row stand in the encoded word. -/
def Laws.CanonicalEncoding.Statement (i : Instr) : Prop := (rowOf i).prints (encode i) = true

/-! What the canonical masks leave of a word of each format: the operand fields are masked out. -/

theorem encodeNNN_mask (op : BitVec 4) (nnn : Addr) : encodeNNN op nnn &&& 0xF000 = encodeNNN op 0 := by
  have : (0xF000 : Word) = BitVec.allOnes 4 ++ 0#12 := by decide
  rw [this, encodeNNN, BitVec.and_append, BitVec.and_allOnes, BitVec.and_zero]; rfl

theorem encodeXKK_mask_op (op : BitVec 4) (x : Reg) (kk : Byte) : encodeXKK op x kk &&& 0xF000 = encodeXKK op 0 0 := by
  have : (0xF000 : Word) = BitVec.allOnes 4 ++ 0#4 ++ 0#8 := by decide
  rw [this, encodeXKK, BitVec.and_append, BitVec.and_append, BitVec.and_allOnes, BitVec.and_zero, BitVec.and_zero]; rfl

theorem encodeXKK_mask_sub (op : BitVec 4) (x : Reg) (kk : Byte) : encodeXKK op x kk &&& 0xF0FF = encodeXKK op 0 kk := by
  have : (0xF0FF : Word) = BitVec.allOnes 4 ++ 0#4 ++ BitVec.allOnes 8 := by decide
  rw [this, encodeXKK, BitVec.and_append, BitVec.and_append, BitVec.and_allOnes, BitVec.and_allOnes, BitVec.and_zero]; rfl

theorem encodeXYN_mask_op (op : BitVec 4) (x y : Reg) (n : BitVec 4) :
    encodeXYN op x y n &&& 0xF000 = encodeXYN op 0 0 0 := by
  have : (0xF000 : Word) = BitVec.allOnes 4 ++ 0#4 ++ 0#4 ++ 0#4 := by decide
  rw [this, encodeXYN, BitVec.and_append, BitVec.and_append, BitVec.and_append, BitVec.and_allOnes, BitVec.and_zero,
    BitVec.and_zero, BitVec.and_zero]; rfl

theorem encodeXYN_mask_sub (op : BitVec 4) (x y : Reg) (n : BitVec 4) :
    encodeXYN op x y n &&& 0xF00F = encodeXYN op 0 0 n := by
  have : (0xF00F : Word) = BitVec.allOnes 4 ++ 0#4 ++ 0#4 ++ BitVec.allOnes 4 := by decide
  rw [this, encodeXYN, BitVec.and_append, BitVec.and_append, BitVec.and_append, BitVec.and_allOnes, BitVec.and_allOnes,
    BitVec.and_zero, BitVec.and_zero]; rfl

/-- A masked word is the row's pattern. -/
theorem OpcodeRow.prints_of_mask {r : OpcodeRow} {w p : Word} (hm : w &&& r.canonicalMask = p)
    (hp : p = r.canonicalPattern) : r.prints w = true := by rw [OpcodeRow.prints, hm, hp]; exact beq_self_eq_true _

theorem Laws.CanonicalEncoding.op00E0 : Laws.CanonicalEncoding.Statement .op00E0 :=
  OpcodeRow.prints_of_mask rfl rfl
theorem Laws.CanonicalEncoding.op00EE : Laws.CanonicalEncoding.Statement .op00EE :=
  OpcodeRow.prints_of_mask rfl rfl
theorem Laws.CanonicalEncoding.op1nnn (nnn : Addr) : Laws.CanonicalEncoding.Statement (.op1nnn nnn) :=
  OpcodeRow.prints_of_mask (encodeNNN_mask _ _) rfl
theorem Laws.CanonicalEncoding.op2nnn (nnn : Addr) : Laws.CanonicalEncoding.Statement (.op2nnn nnn) :=
  OpcodeRow.prints_of_mask (encodeNNN_mask _ _) rfl
theorem Laws.CanonicalEncoding.op3xkk (x : Reg) (kk : Byte) : Laws.CanonicalEncoding.Statement (.op3xkk x kk) :=
  OpcodeRow.prints_of_mask (encodeXKK_mask_op _ _ _) rfl
theorem Laws.CanonicalEncoding.op4xkk (x : Reg) (kk : Byte) : Laws.CanonicalEncoding.Statement (.op4xkk x kk) :=
  OpcodeRow.prints_of_mask (encodeXKK_mask_op _ _ _) rfl
theorem Laws.CanonicalEncoding.op5xy0 (x y : Reg) : Laws.CanonicalEncoding.Statement (.op5xy0 x y) :=
  OpcodeRow.prints_of_mask (encodeXYN_mask_sub _ _ _ _) rfl
theorem Laws.CanonicalEncoding.op6xkk (x : Reg) (kk : Byte) : Laws.CanonicalEncoding.Statement (.op6xkk x kk) :=
  OpcodeRow.prints_of_mask (encodeXKK_mask_op _ _ _) rfl
theorem Laws.CanonicalEncoding.op7xkk (x : Reg) (kk : Byte) : Laws.CanonicalEncoding.Statement (.op7xkk x kk) :=
  OpcodeRow.prints_of_mask (encodeXKK_mask_op _ _ _) rfl
theorem Laws.CanonicalEncoding.op8xy0 (x y : Reg) : Laws.CanonicalEncoding.Statement (.op8xy0 x y) :=
  OpcodeRow.prints_of_mask (encodeXYN_mask_sub _ _ _ _) rfl
theorem Laws.CanonicalEncoding.op8xy1 (x y : Reg) : Laws.CanonicalEncoding.Statement (.op8xy1 x y) :=
  OpcodeRow.prints_of_mask (encodeXYN_mask_sub _ _ _ _) rfl
theorem Laws.CanonicalEncoding.op8xy2 (x y : Reg) : Laws.CanonicalEncoding.Statement (.op8xy2 x y) :=
  OpcodeRow.prints_of_mask (encodeXYN_mask_sub _ _ _ _) rfl
theorem Laws.CanonicalEncoding.op8xy3 (x y : Reg) : Laws.CanonicalEncoding.Statement (.op8xy3 x y) :=
  OpcodeRow.prints_of_mask (encodeXYN_mask_sub _ _ _ _) rfl
theorem Laws.CanonicalEncoding.op8xy4 (x y : Reg) : Laws.CanonicalEncoding.Statement (.op8xy4 x y) :=
  OpcodeRow.prints_of_mask (encodeXYN_mask_sub _ _ _ _) rfl
theorem Laws.CanonicalEncoding.op8xy5 (x y : Reg) : Laws.CanonicalEncoding.Statement (.op8xy5 x y) :=
  OpcodeRow.prints_of_mask (encodeXYN_mask_sub _ _ _ _) rfl
theorem Laws.CanonicalEncoding.op8xy6 (x y : Reg) : Laws.CanonicalEncoding.Statement (.op8xy6 x y) :=
  OpcodeRow.prints_of_mask (encodeXYN_mask_sub _ _ _ _) rfl
theorem Laws.CanonicalEncoding.op8xy7 (x y : Reg) : Laws.CanonicalEncoding.Statement (.op8xy7 x y) :=
  OpcodeRow.prints_of_mask (encodeXYN_mask_sub _ _ _ _) rfl
theorem Laws.CanonicalEncoding.op8xyE (x y : Reg) : Laws.CanonicalEncoding.Statement (.op8xyE x y) :=
  OpcodeRow.prints_of_mask (encodeXYN_mask_sub _ _ _ _) rfl
theorem Laws.CanonicalEncoding.op9xy0 (x y : Reg) : Laws.CanonicalEncoding.Statement (.op9xy0 x y) :=
  OpcodeRow.prints_of_mask (encodeXYN_mask_sub _ _ _ _) rfl
theorem Laws.CanonicalEncoding.opAnnn (nnn : Addr) : Laws.CanonicalEncoding.Statement (.opAnnn nnn) :=
  OpcodeRow.prints_of_mask (encodeNNN_mask _ _) rfl
theorem Laws.CanonicalEncoding.opBnnn (nnn : Addr) : Laws.CanonicalEncoding.Statement (.opBnnn nnn) :=
  OpcodeRow.prints_of_mask (encodeNNN_mask _ _) rfl
theorem Laws.CanonicalEncoding.opCxkk (x : Reg) (kk : Byte) : Laws.CanonicalEncoding.Statement (.opCxkk x kk) :=
  OpcodeRow.prints_of_mask (encodeXKK_mask_op _ _ _) rfl
theorem Laws.CanonicalEncoding.opDxyn (x y : Reg) (n : Fin 16) : Laws.CanonicalEncoding.Statement (.opDxyn x y n) :=
  OpcodeRow.prints_of_mask (encodeXYN_mask_op _ _ _ _) rfl
theorem Laws.CanonicalEncoding.opEx9E (x : Reg) : Laws.CanonicalEncoding.Statement (.opEx9E x) :=
  OpcodeRow.prints_of_mask (encodeXKK_mask_sub _ _ _) rfl
theorem Laws.CanonicalEncoding.opExA1 (x : Reg) : Laws.CanonicalEncoding.Statement (.opExA1 x) :=
  OpcodeRow.prints_of_mask (encodeXKK_mask_sub _ _ _) rfl
theorem Laws.CanonicalEncoding.opFx07 (x : Reg) : Laws.CanonicalEncoding.Statement (.opFx07 x) :=
  OpcodeRow.prints_of_mask (encodeXKK_mask_sub _ _ _) rfl
theorem Laws.CanonicalEncoding.opFx0A (x : Reg) : Laws.CanonicalEncoding.Statement (.opFx0A x) :=
  OpcodeRow.prints_of_mask (encodeXKK_mask_sub _ _ _) rfl
theorem Laws.CanonicalEncoding.opFx15 (x : Reg) : Laws.CanonicalEncoding.Statement (.opFx15 x) :=
  OpcodeRow.prints_of_mask (encodeXKK_mask_sub _ _ _) rfl
theorem Laws.CanonicalEncoding.opFx18 (x : Reg) : Laws.CanonicalEncoding.Statement (.opFx18 x) :=
  OpcodeRow.prints_of_mask (encodeXKK_mask_sub _ _ _) rfl
theorem Laws.CanonicalEncoding.opFx1E (x : Reg) : Laws.CanonicalEncoding.Statement (.opFx1E x) :=
  OpcodeRow.prints_of_mask (encodeXKK_mask_sub _ _ _) rfl
theorem Laws.CanonicalEncoding.opFx29 (x : Reg) : Laws.CanonicalEncoding.Statement (.opFx29 x) :=
  OpcodeRow.prints_of_mask (encodeXKK_mask_sub _ _ _) rfl
theorem Laws.CanonicalEncoding.opFx33 (x : Reg) : Laws.CanonicalEncoding.Statement (.opFx33 x) :=
  OpcodeRow.prints_of_mask (encodeXKK_mask_sub _ _ _) rfl
theorem Laws.CanonicalEncoding.opFx55 (x : Reg) : Laws.CanonicalEncoding.Statement (.opFx55 x) :=
  OpcodeRow.prints_of_mask (encodeXKK_mask_sub _ _ _) rfl
theorem Laws.CanonicalEncoding.opFx65 (x : Reg) : Laws.CanonicalEncoding.Statement (.opFx65 x) :=
  OpcodeRow.prints_of_mask (encodeXKK_mask_sub _ _ _) rfl

end Sys2Proof
end

