-- ==== Sys2Proof/Machine/Assembly.lean ====
section
/-! DEFINITION. The conventional assembler text of an instruction (spec/30_encoding.md R57; the spec's D18): for readers and
listings. No rule depends on it, and nothing in the machine reads it. -/

namespace Sys2Proof.Machine

/-- One hexadecimal digit. -/
def hexDigit (n : Nat) : String :=
  ["0", "1", "2", "3", "4", "5", "6", "7", "8", "9", "A", "B", "C", "D", "E", "F"].getD n ""

/-- `V0` to `VF`. -/
def regText (r : Reg) : String := "V" ++ hexDigit r.val

/-- `kk` as a number. -/
def byteText (b : Byte) : String := "0x" ++ hexDigit (b.toNat / 16) ++ hexDigit (b.toNat % 16)

/-- `nnn` as a number. -/
def addrText (a : Addr) : String :=
  "0x" ++ hexDigit (a.toNat / 256) ++ hexDigit (a.toNat / 16 % 16) ++ hexDigit (a.toNat % 16)

/-- A mnemonic with one operand. -/
def text1 (mnemonic a : String) : String := mnemonic ++ " " ++ a

/-- A mnemonic with two operands. -/
def text2 (mnemonic a b : String) : String := mnemonic ++ " " ++ a ++ ", " ++ b

/-- The conventional text (the table of R57); `y` of `8xy6` and `8xyE` does not appear in it. -/
def assembly : Instr → String
  | .op00E0 => "CLS"
  | .op00EE => "RET"
  | .op1nnn nnn => text1 "JP" (addrText nnn)
  | .op2nnn nnn => text1 "CALL" (addrText nnn)
  | .op3xkk x kk => text2 "SE" (regText x) (byteText kk)
  | .op4xkk x kk => text2 "SNE" (regText x) (byteText kk)
  | .op5xy0 x y => text2 "SE" (regText x) (regText y)
  | .op6xkk x kk => text2 "LD" (regText x) (byteText kk)
  | .op7xkk x kk => text2 "ADD" (regText x) (byteText kk)
  | .op8xy0 x y => text2 "LD" (regText x) (regText y)
  | .op8xy1 x y => text2 "OR" (regText x) (regText y)
  | .op8xy2 x y => text2 "AND" (regText x) (regText y)
  | .op8xy3 x y => text2 "XOR" (regText x) (regText y)
  | .op8xy4 x y => text2 "ADD" (regText x) (regText y)
  | .op8xy5 x y => text2 "SUB" (regText x) (regText y)
  | .op8xy6 x _ => text1 "SHR" (regText x)
  | .op8xy7 x y => text2 "SUBN" (regText x) (regText y)
  | .op8xyE x _ => text1 "SHL" (regText x)
  | .op9xy0 x y => text2 "SNE" (regText x) (regText y)
  | .opAnnn nnn => text2 "LD" "I" (addrText nnn)
  | .opBnnn nnn => text2 "JP" "V0" (addrText nnn)
  | .opCxkk x kk => text2 "RND" (regText x) (byteText kk)
  | .opDxyn x y n => text2 "DRW" (regText x) (regText y) ++ ", " ++ toString n.val
  | .opEx9E x => text1 "SKP" (regText x)
  | .opExA1 x => text1 "SKNP" (regText x)
  | .opFx07 x => text2 "LD" (regText x) "DT"
  | .opFx0A x => text2 "LD" (regText x) "K"
  | .opFx15 x => text2 "LD" "DT" (regText x)
  | .opFx18 x => text2 "LD" "ST" (regText x)
  | .opFx1E x => text2 "ADD" "I" (regText x)
  | .opFx29 x => text2 "LD" "F" (regText x)
  | .opFx33 x => text2 "LD" "B" (regText x)
  | .opFx55 x => text2 "LD" "[I]" (regText x)
  | .opFx65 x => text2 "LD" (regText x) "[I]"

end Sys2Proof.Machine
end

