-- ==== Sys2Proof/Tests/Slice0.lean ====
section
/-! SUPPORT. The model's own tests: words written out bit by bit from the encodings of spec/30_encoding.md, single cycles
with the results that spec/95_test_vectors.md derives from the rules (the vector's name stands in the docstring), and for
every obligation with hypotheses a witness that meets them. -/

namespace Sys2Proof.Tests

open Sys2Proof.Machine

set_option Elab.async false

/-- The state after one cycle that executes `w` in `s`. -/
def after (s : State) (w : Word) : Option State :=
  match step (placeWord s w) with
  | .next t => some t
  | _ => none

/-- The outcome is a next state. -/
def isNext (o : Host.Outcome State Fault Refusal) : Bool :=
  match o with
  | .next _ => true
  | _ => false

theorem exists_of_isNext {o : Host.Outcome State Fault Refusal} (h : isNext o = true) : ∃ t, o = .next t := by
  cases o with
  | next t => exact ⟨t, rfl⟩
  | fault r => cases h
  | refused r => cases h

/-- Reset with registers 1 and 2 and `VF` set. -/
def regs (v1 v2 vf : Byte) : State := setReg (setReg (setReg State.reset 1 v1) 2 v2) VF vf

/-- `V1`, `V2`, `VF` and `pc`. -/
def view (t : State) : Byte × Byte × Byte × Nat := (reg t 1, reg t 2, reg t VF, t.pc.toNat)

/-- Bytes stored from an address upward. -/
def poke (s : State) (a : Nat) : List Byte → State
  | [] => s
  | b :: bs => poke (writeByte s a b) (a + 1) bs

/-- The `n` bytes from an address upward. -/
def peek (t : State) (a n : Nat) : List Byte := (List.range n).map fun i => readByte t (a + i)

/-- Reset with `pc` elsewhere. -/
def fromPC (a : Word) : State := { State.reset with pc := a }

/-- The state with one more cell lit. -/
def litCell (s : State) (row col : Nat) : State := setDisplay s (setCell s.display row col true)

/-- How many cells of the display are lit. -/
def litCount (d : Display) : Nat := (d.toList.map fun row => row.toList.count true).sum

/-- All these cells are lit. -/
def allLit (d : Display) (cells : List (Nat × Nat)) : Bool := cells.all fun p => cell d p.1 p.2

/-- The keypad level with the listed keys held, for one cycle. -/
def held (s : State) (ks : List Nat) : State :=
  s.schedule [⟨ks.foldl (fun b k => b ||| (1#16 <<< k)) 0, 0⟩]

/-- The random byte for one cycle. -/
def random (s : State) (b : Byte) : State := s.schedule [⟨0, b⟩]

/-! ## Words written out from the encodings (spec/30_encoding.md R46 to R53) -/

theorem test_decode_op00E0 : decode 0b0000_0000_1110_0000 = .ok (.op00E0) := by decide
theorem test_decode_op00EE : decode 0b0000_0000_1110_1110 = .ok (.op00EE) := by decide
theorem test_decode_op1nnn : decode 0b0001_1010_1011_1100 = .ok (.op1nnn 0xABC) := by decide
theorem test_decode_op2nnn : decode 0b0010_0000_0000_0001 = .ok (.op2nnn 0x001) := by decide
theorem test_decode_op3xkk : decode 0b0011_1010_0000_0101 = .ok (.op3xkk 10 0x05) := by decide
theorem test_decode_op4xkk : decode 0b0100_0001_1000_0000 = .ok (.op4xkk 1 0x80) := by decide
theorem test_decode_op5xy0 : decode 0b0101_0001_0010_0000 = .ok (.op5xy0 1 2) := by decide
theorem test_decode_op6xkk : decode 0b0110_1010_0100_0010 = .ok (.op6xkk 10 0x42) := by decide
theorem test_decode_op7xkk : decode 0b0111_1111_0000_0001 = .ok (.op7xkk 15 0x01) := by decide
theorem test_decode_op8xy0 : decode 0b1000_0001_0010_0000 = .ok (.op8xy0 1 2) := by decide
theorem test_decode_op8xy1 : decode 0b1000_0001_0010_0001 = .ok (.op8xy1 1 2) := by decide
theorem test_decode_op8xy2 : decode 0b1000_0001_0010_0010 = .ok (.op8xy2 1 2) := by decide
theorem test_decode_op8xy3 : decode 0b1000_0001_0010_0011 = .ok (.op8xy3 1 2) := by decide
theorem test_decode_op8xy4 : decode 0b1000_0001_0010_0100 = .ok (.op8xy4 1 2) := by decide
theorem test_decode_op8xy5 : decode 0b1000_0001_0010_0101 = .ok (.op8xy5 1 2) := by decide
theorem test_decode_op8xy6 : decode 0b1000_0001_0010_0110 = .ok (.op8xy6 1 2) := by decide
theorem test_decode_op8xy7 : decode 0b1000_0001_0010_0111 = .ok (.op8xy7 1 2) := by decide
theorem test_decode_op8xyE : decode 0b1000_0001_0010_1110 = .ok (.op8xyE 1 2) := by decide
theorem test_decode_op9xy0 : decode 0b1001_0001_0010_0000 = .ok (.op9xy0 1 2) := by decide
theorem test_decode_opAnnn : decode 0b1010_0001_0010_0011 = .ok (.opAnnn 0x123) := by decide
theorem test_decode_opBnnn : decode 0b1011_1111_1111_1111 = .ok (.opBnnn 0xFFF) := by decide
theorem test_decode_opCxkk : decode 0b1100_0001_0000_1111 = .ok (.opCxkk 1 0x0F) := by decide
theorem test_decode_opDxyn : decode 0b1101_0011_0100_0101 = .ok (.opDxyn 3 4 5) := by decide
theorem test_decode_opEx9E : decode 0b1110_0001_1001_1110 = .ok (.opEx9E 1) := by decide
theorem test_decode_opExA1 : decode 0b1110_0001_1010_0001 = .ok (.opExA1 1) := by decide
theorem test_decode_opFx07 : decode 0b1111_0001_0000_0111 = .ok (.opFx07 1) := by decide
theorem test_decode_opFx0A : decode 0b1111_0001_0000_1010 = .ok (.opFx0A 1) := by decide
theorem test_decode_opFx15 : decode 0b1111_0001_0001_0101 = .ok (.opFx15 1) := by decide
theorem test_decode_opFx18 : decode 0b1111_0001_0001_1000 = .ok (.opFx18 1) := by decide
theorem test_decode_opFx1E : decode 0b1111_0001_0001_1110 = .ok (.opFx1E 1) := by decide
theorem test_decode_opFx29 : decode 0b1111_0001_0010_1001 = .ok (.opFx29 1) := by decide
theorem test_decode_opFx33 : decode 0b1111_0001_0011_0011 = .ok (.opFx33 1) := by decide
theorem test_decode_opFx55 : decode 0b1111_0010_0101_0101 = .ok (.opFx55 2) := by decide
theorem test_decode_opFx65 : decode 0b1111_0010_0110_0101 = .ok (.opFx65 2) := by decide

/-- The words the ignored bits let through (R50, R52, R49; T9 to T16). -/
theorem test_decode_ignored_bits :
    decode 0x0000 = .ok .op00E0 ∧ decode 0x0AB0 = .ok .op00E0 ∧ decode 0x0AAE = .ok .op00EE ∧
    decode 0x5127 = .ok (.op5xy0 1 2) ∧ decode 0x912F = .ok (.op9xy0 1 2) ∧
    decode 0xE10E = .ok (.opEx9E 1) ∧ decode 0xE101 = .ok (.opExA1 1) := by decide

/-! ## WellFormed: each check refuses an ill-formed word, and so does the decoder (T20 to T23) -/

theorem test_family0_refuses : family0WellFormed 0x0001 = false ∧ Word.wellFormed 0x0001 = false ∧
    decode 0x0001 = .error .family0 ∧ decode 0x0FFD = .error .family0 := by decide
theorem test_family8_refuses : family8WellFormed 0x8008 = false ∧ Word.wellFormed 0x8008 = false ∧
    decode 0x8008 = .error .family8 ∧ decode 0x812F = .error .family8 := by decide
theorem test_familyE_refuses : familyEWellFormed 0xE19D = false ∧ Word.wellFormed 0xE19D = false ∧
    decode 0xE19D = .error .familyE ∧ decode 0xE1A2 = .error .familyE := by decide
theorem test_familyF_refuses : familyFWellFormed 0xF175 = false ∧ Word.wellFormed 0xF175 = false ∧
    decode 0xF175 = .error .familyF ∧ decode 0xFFFF = .error .familyF := by decide
theorem test_canonical_refuses : Word.canonical 0x0000 = false ∧ Word.canonical 0x5127 = false ∧
    Word.canonical 0x912F = false ∧ Word.canonical 0xE10E = false ∧ Word.wellFormed 0xE10E = true ∧
    Word.canonical 0xE19E = true := by decide

/-- A short list of bytes is no instruction, and the rest of a longer one is given back (R45). -/
theorem test_decodeBytes : decodeBytes [0x6A] = none ∧ decodeBytes [0x6A, 0x42, 0x99] = some (.op6xkk 10 0x42, [0x99]) ∧
    decodeTableWord 16 0x6A42 = some (.op6xkk 10 0x42) ∧ decodeTableWord 16 0x0001 = none := by decide

/-! ## Single cycles -/

/-- T7: 0x12 at 0x200 and 0x34 at 0x201 are the word 0x1234 (R32). -/
theorem test_fetch_is_bigEndian :
    (after State.reset 0x1234).map (fun t => (t.opcode, t.pc.toNat)) = some (0x1234, 0x234) := by decide +kernel
/-- T5: 0x6A at 0xFFF and 0x42 at 0x000 (R36, R68). -/
theorem test_fetch_wraps :
    (after (fromPC 0xFFF) 0x6A42).map (fun t => (reg t 10, t.pc.toNat)) = some (0x42, 0x001) := by decide +kernel
/-- The first step after reset runs the placed word. -/
theorem test_withFetchWord_runs_first :
    isNext (step (State.reset.withFetchWord 16 0x6A42)) = true ∧
    (State.reset.withFetchWord 16 0x6A42).mem = [(0x200, 0x6A), (0x201, 0x42)] := by decide +kernel
/-- T138: a word that is no instruction sets `DEC`, and the timers tick all the same (R121, R65). -/
theorem test_decode_error_cycle :
    (after (setDT State.reset 7) 0x0001).map (fun t => (t.pc.toNat, t.DT.toNat, t.ERR)) = some (0x202, 6, 0b001) := by decide +kernel
/-- T8: the word 0x0000 clears the screen (R50, R105). -/
theorem test_op00E0_zero_word :
    (after (litCell State.reset 3 7) 0x0000).map (fun t => (litCount t.display, t.pc.toNat, t.ERR)) = some (0, 0x202, 0) := by decide +kernel
/-- T90: cells (3, 7) and (31, 63) go off. -/
theorem test_op00E0_corners :
    (after (litCell (litCell State.reset 3 7) 31 63) 0x00E0).map (fun t => (litCount t.display, t.pc.toNat)) = some (0, 0x202) := by decide +kernel
/-- T31: `sp` = 2 returns to slot 1 (R70). -/
theorem test_op00EE_second_slot :
    (after { fromPC 0x300 with sp := 2, stack := (State.reset.stack.set 0 0x206).set 1 0x345 } 0x00EE).map
      (fun t => (t.sp.val, t.pc.toNat, t.stack[0])) = some (1, 0x345, 0x206) := by decide +kernel
/-- T32: underflow, the slot is not read (R123). -/
theorem test_op00EE_empty :
    (after { fromPC 0x300 with stack := State.reset.stack.set 0 0x206 } 0x00EE).map
      (fun t => (t.sp.val, t.pc.toNat, t.ERR)) = some (0, 0x302, 0b100) := by decide +kernel
/-- T35: an odd target in the reserved region is legal (R71). -/
theorem test_op1nnn_low_odd :
    (after State.reset 0x1001).map (fun t => t.pc.toNat) = some 0x001 := by decide +kernel
/-- T38: the sixteenth call fills slot 15 (R72). -/
theorem test_op2nnn_last_slot :
    (after { State.reset with sp := 15 } 0x2ABC).map
      (fun t => (t.stack[15], t.sp.val, t.pc.toNat, t.ERR)) = some (0x202, 16, 0xABC, 0) := by decide +kernel
/-- T39: overflow suppresses the call (R122). -/
theorem test_op2nnn_full :
    (after { State.reset with sp := 16 } 0x2ABC).map
      (fun t => (t.stack[15], t.sp.val, t.pc.toNat, t.ERR)) = some (0, 16, 0x202, 0b010) := by decide +kernel
/-- T26: a skip at 0xFFC ends at 0x000 (R79). -/
theorem test_op3xkk_wraps :
    (after (setReg (fromPC 0xFFC) 10 5) 0x3A05).map (fun t => t.pc.toNat) = some 0x000 := by decide +kernel
/-- T25. -/
theorem test_op3xkk_differs :
    (after (setReg State.reset 10 6) 0x3A05).map (fun t => t.pc.toNat) = some 0x202 := by decide +kernel
/-- T28. -/
theorem test_op4xkk_equal :
    (after (setReg State.reset 10 5) 0x4A05).map (fun t => t.pc.toNat) = some 0x202 := by decide +kernel
/-- T29. -/
theorem test_op4xkk_differs :
    (after (setReg State.reset 10 6) 0x4A05).map (fun t => t.pc.toNat) = some 0x204 := by decide +kernel
/-- T12: the low nibble is ignored. -/
theorem test_op5xy0_low_nibble :
    (after (regs 7 7 0) 0x5127).map (fun t => t.pc.toNat) = some 0x204 := by decide +kernel
/-- T141. -/
theorem test_op5xy0_differs :
    (after (regs 7 8 0) 0x5120).map (fun t => t.pc.toNat) = some 0x202 := by decide +kernel
/-- T151: register 15 is an ordinary destination. -/
theorem test_op6xkk_register15 :
    (after State.reset 0x6F07).map view = some (0, 0, 0x07, 0x202) := by decide +kernel
/-- T152: no carry flag. -/
theorem test_op7xkk_wraps :
    (after (setReg (regs 0 0 0x55) 10 0xFF) 0x7A01).map (fun t => (reg t 10, reg t VF)) = some (0, 0x55) := by decide +kernel
/-- T154. -/
theorem test_op7xkk_register15 :
    (after (regs 0 0 0xFF) 0x7F01).map view = some (0, 0, 0, 0x202) := by decide +kernel
/-- T155. -/
theorem test_op8xy0_copies :
    (after (regs 0x01 0x33 0) 0x8120).map view = some (0x33, 0x33, 0, 0x202) := by decide +kernel
/-- T156: `VF` stays. -/
theorem test_op8xy1_or :
    (after (regs 0x0C 0x0A 0x77) 0x8121).map view = some (0x0E, 0x0A, 0x77, 0x202) := by decide +kernel
/-- T157. -/
theorem test_op8xy2_and :
    (after (regs 0x0C 0x0A 0x77) 0x8122).map view = some (0x08, 0x0A, 0x77, 0x202) := by decide +kernel
/-- T158. -/
theorem test_op8xy3_xor :
    (after (regs 0x0C 0x0A 0x77) 0x8123).map view = some (0x06, 0x0A, 0x77, 0x202) := by decide +kernel
/-- T41: 255 is not a carry. -/
theorem test_op8xy4_255 :
    (after (regs 0xFE 0x01 0x01) 0x8124).map view = some (0xFF, 0x01, 0, 0x202) := by decide +kernel
/-- T45: the sum stays, the carry is lost. -/
theorem test_op8xy4_register15 :
    (after (regs 0x20 0 0xF0) 0x8F14).map view = some (0x20, 0, 0x10, 0x202) := by decide +kernel
/-- T48: equal operands give flag 0. -/
theorem test_op8xy5_equal :
    (after (regs 0x05 0x05 0x01) 0x8125).map view = some (0, 0x05, 0, 0x202) := by decide +kernel
/-- T53. -/
theorem test_op8xy5_register15 :
    (after (regs 0x05 0 0x03) 0x8F15).map view = some (0x05, 0, 0xFE, 0x202) := by decide +kernel
/-- T60: `V[y]` is not used. -/
theorem test_op8xy6_in_place :
    (after (regs 0x05 0xFF 0) 0x8126).map view = some (0x02, 0xFF, 0x01, 0x202) := by decide +kernel
/-- T64: the flag is lost. -/
theorem test_op8xy6_register15 :
    (after (regs 0 0 0xFF) 0x8F26).map view = some (0, 0, 0x7F, 0x202) := by decide +kernel
/-- T58. -/
theorem test_op8xy7_less :
    (after (regs 0x05 0x03 0x01) 0x8127).map view = some (0xFE, 0x03, 0, 0x202) := by decide +kernel
/-- T59: the old `VF` is the minuend. -/
theorem test_op8xy7_old_flag :
    (after (regs 0x05 0 0x09) 0x81F7).map view = some (0x04, 0, 0x01, 0x202) := by decide +kernel
/-- T65. -/
theorem test_op8xyE_in_place :
    (after (regs 0x81 0xFF 0) 0x812E).map view = some (0x02, 0xFF, 0x01, 0x202) := by decide +kernel
/-- T68. -/
theorem test_op8xyE_register15 :
    (after (regs 0 0 0x81) 0x8FFE).map view = some (0, 0, 0x02, 0x202) := by decide +kernel
/-- T13. -/
theorem test_op9xy0_low_nibble :
    (after (regs 7 8 0) 0x912F).map (fun t => t.pc.toNat) = some 0x204 := by decide +kernel
/-- T145: never skips. -/
theorem test_op9xy0_same_register :
    (after State.reset 0x9330).map (fun t => t.pc.toNat) = some 0x202 := by decide +kernel
/-- T71. -/
theorem test_opAnnn_top :
    (after State.reset 0xAFFF).map (fun t => (t.I.toNat, t.pc.toNat)) = some (0xFFF, 0x202) := by decide +kernel
/-- T147. -/
theorem test_opBnnn_wraps :
    (after (setReg State.reset 0 0xFF) 0xBFFF).map (fun t => t.pc.toNat) = some 0x0FE := by decide +kernel
/-- T146: register 0, whatever the digit `x`. -/
theorem test_opBnnn_register0 :
    (after (setReg (regs 0x01 0x02 0) 0 0x10) 0xB300).map (fun t => t.pc.toNat) = some 0x310 := by decide +kernel
/-- T162. -/
theorem test_opCxkk_masks :
    (after (random State.reset 0xA7) 0xC10F).map view = some (0x07, 0, 0, 0x202) := by decide +kernel
/-- T165. -/
theorem test_opCxkk_register15 :
    (after (random State.reset 0xFF) 0xCF55).map view = some (0, 0, 0x55, 0x202) := by decide +kernel
/-- T104, S6: bit 7 at (31, 63), bits 6 to 0 at (31, 0) to (31, 6). -/
theorem test_opDxyn_wraps_at_corner :
    (after (poke (setI (setReg (regs 0x1F 0 0) 0 0x3F) 0x300) 0x300 [0xFF]) 0xD011).map
      (fun t => (litCount t.display, allLit t.display [(31, 63), (31, 0), (31, 1), (31, 2), (31, 3), (31, 4), (31, 5), (31, 6)],
        reg t VF)) = some (8, true, 0) := by decide +kernel
/-- T102: the lit cell (0, 3) goes off and sets the flag. -/
theorem test_opDxyn_collision :
    (after (poke (setI (litCell State.reset 0 3) 0x300) 0x300 [0xF0]) 0xD011).map
      (fun t => (litCount t.display, allLit t.display [(0, 0), (0, 1), (0, 2)], reg t VF)) = some (3, true, 1) := by decide +kernel
/-- T112. -/
theorem test_opEx9E_number_mod_16 :
    (after (held (regs 0x17 0 0) [7]) 0xE19E).map (fun t => t.pc.toNat) = some 0x204 := by decide +kernel
/-- T111. -/
theorem test_opEx9E_other_key :
    (after (held (regs 0x07 0 0) [8]) 0xE19E).map (fun t => t.pc.toNat) = some 0x202 := by decide +kernel
/-- T115. -/
theorem test_opExA1_all_but_7 :
    (after (held (regs 0xF7 0 0) [0, 1, 2, 3, 4, 5, 6, 8, 9, 10, 11, 12, 13, 14, 15]) 0xE1A1).map
      (fun t => t.pc.toNat) = some 0x204 := by decide +kernel
/-- T113. -/
theorem test_opExA1_held :
    (after (held (regs 0x07 0 0) [7]) 0xE1A1).map (fun t => t.pc.toNat) = some 0x202 := by decide +kernel
/-- T126. -/
theorem test_opFx07_before_tick :
    (after (setDT (regs 0x01 0 0) 0x2A) 0xF107).map (fun t => (reg t 1, t.DT)) = some (0x2A, 0x29) := by decide +kernel
/-- T120: no key held, the timers tick. -/
theorem test_opFx0A_waits :
    (after (held (setST (setDT (regs 0x55 0 0) 5) 1) []) 0xF10A).map
      (fun t => (t.pc.toNat, reg t 1, t.DT.toNat, t.ST.toNat)) = some (0x200, 0x55, 4, 0) := by decide +kernel
/-- T122: keys 3 and C. -/
theorem test_opFx0A_least_key :
    (after (held State.reset [0xC, 3]) 0xF10A).map view = some (0x03, 0, 0, 0x202) := by decide +kernel
/-- T130, S8: 1 written is 0 at the end of the cycle. -/
theorem test_opFx15_ticks :
    (after (regs 0x01 0 0) 0xF115).map (fun t => t.DT) = some 0 := by decide +kernel
/-- T133. -/
theorem test_opFx15_255 :
    (after (regs 0xFF 0 0) 0xF115).map (fun t => t.DT) = some 0xFE := by decide +kernel
/-- T135. -/
theorem test_opFx18_ticks :
    (after (regs 0x02 0 0) 0xF118).map (fun t => (t.ST, t.DT)) = some (1, 0) := by decide +kernel
/-- T136. -/
theorem test_opFx18_zero :
    (after (setST State.reset 9) 0xF118).map (fun t => t.ST) = some 0 := by decide +kernel
/-- T74: no flag. -/
theorem test_opFx1E_wraps :
    (after (setI (regs 0xFF 0 0x07) 0xFF0) 0xF11E).map (fun t => (t.I.toNat, reg t VF)) = some (0x0EF, 0x07) := by decide +kernel
/-- T77. -/
theorem test_opFx29_digit :
    (after (regs 0x0F 0 0) 0xF129).map (fun t => t.I.toNat) = some 0x09B := by decide +kernel
/-- T170. -/
theorem test_opFx29_no_mask :
    (after (regs 0xFF 0 0) 0xF129).map (fun t => t.I.toNat) = some 0x54B := by decide +kernel
/-- T171: 123 at 0xFFE. -/
theorem test_opFx33_wraps :
    (after (setI (regs 0x7B 0 0) 0xFFE) 0xF133).map (fun t => (peek t 0xFFE 3, t.I.toNat)) = some ([1, 2, 3], 0xFFE) := by decide +kernel
/-- T172: the word in `opcode` stays (R41). -/
theorem test_opFx33_overwrites_itself :
    (after (setI (regs 0x21 0 0) 0x200) 0xF133).map (fun t => (peek t 0x200 3, t.opcode)) = some ([0, 3, 3], 0xF133) := by decide +kernel
/-- T84: `V0` to `V2`, and not `V3`. -/
theorem test_opFx55_inclusive :
    (after (setI (setReg (setReg (regs 0x22 0x33 0) 0 0x11) 3 0x44) 0x300) 0xF255).map
      (fun t => (peek t 0x300 4, t.I.toNat)) = some ([0x11, 0x22, 0x33, 0], 0x300) := by decide +kernel
/-- T86: `V7` at 0xFFF, `V8` at 0x000. -/
theorem test_opFx55_wraps :
    (after (setI (setReg (setReg (setReg State.reset 7 8) 8 9) 15 0x10) 0xFF8) 0xFF55).map
      (fun t => peek t 0xFFF 9) = some [8, 9, 0, 0, 0, 0, 0, 0, 0x10] := by decide +kernel
/-- T87: `V3` is not loaded. -/
theorem test_opFx65_inclusive :
    (after (poke (setI State.reset 0x300) 0x300 [0xAA, 0xBB, 0xCC, 0xDD]) 0xF265).map
      (fun t => (reg t 0, reg t 1, reg t 2, reg t 3)) = some (0xAA, 0xBB, 0xCC, 0) := by decide +kernel
/-- T88: the first byte of glyph 1 in the default font. -/
theorem test_opFx65_font :
    (after (setI State.reset 0x055) 0xF065).map (fun t => reg t 0) = some 0x20 := by decide +kernel
/-- R141 to R144: the font, a program image, zero elsewhere; one byte too many is rejected (R143). -/
theorem test_boot_places_bytes :
    (State.boot (Vector.replicate 80 0xAB) [0x60, 0xFF]).map (fun s => (peek s 0x04F 2, peek s 0x09F 2, peek s 0x1FF 4, s.pc)) =
      some ([0, 0xAB], [0xAB, 0], [0, 0x60, 0xFF, 0], 0x200) ∧
    (State.reset.loadRom (List.replicate 3585 0)).isNone = true := by decide +kernel
/-- R27: the outputs are the display, the timers and `ERR`. -/
theorem test_outputs :
    (raise .sunf (setST (setDT State.reset 7) 3)).outputs = ⟨State.reset.display, 7, 3, 0b100⟩ := by decide +kernel
/-- The listing of program P3 in spec/95_test_vectors.md, as far as it shows the forms (R57). -/
theorem test_assembly : assembly (.opAnnn 0x300) = "LD I, 0x300" ∧ assembly (.opFx65 2) = "LD V2, [I]" ∧
    assembly (.opDxyn 3 4 5) = "DRW V3, V4, 5" ∧ assembly (.op8xyE 0 7) = "SHL V0" := by decide +kernel

/-! ## Witnesses: for every obligation with hypotheses, values that meet them

Named after the obligation. `placed w` is reset with the word `w` where the next cycle fetches it. -/

/-- Reset with a word where the next cycle fetches it. -/
def placed (w : Word) : State := placeWord State.reset w

/-- The hypotheses of the `Encoded…` clauses: a word of every row they speak of. -/
theorem witness_encoded_formats :
    Word.op 0x1ABC = 0x1 ∧ Word.op 0x2FFF = 0x2 ∧ Word.op 0x6000 = 0x6 ∧ Word.op 0x7FFF = 0x7 ∧
    Word.op 0xA000 = 0xA ∧ Word.op 0xBFFF = 0xB ∧ Word.op 0xC1FF = 0xC ∧
    Word.op 0x3A05 = 0x3 ∧ Word.op 0x4000 = 0x4 ∧ Word.op 0x512F = 0x5 ∧ Word.op 0x9120 = 0x9 ∧ Word.op 0xDFFF = 0xD ∧
    Word.op 0xE10E = 0xE ∧ Word.low 0xE10E = 0xE ∧ Word.op 0xE1F1 = 0xE ∧ Word.low 0xE1F1 = 0x1 ∧
    (∀ n ∈ [0x0, 0x1, 0x2, 0x3, 0x4, 0x5, 0x6, 0x7, 0xE],
      Word.op (BitVec.ofNat 16 (0x8FF0 + n)) = 0x8 ∧ Word.low (BitVec.ofNat 16 (0x8FF0 + n)) = n) ∧
    (∀ kk ∈ [0x07, 0x0A, 0x15, 0x18, 0x1E, 0x29, 0x33, 0x55, 0x65],
      Word.op (BitVec.ofNat 16 (0xF100 + kk)) = 0xF ∧ Word.lowByte (BitVec.ofNat 16 (0xF100 + kk)) = kk) := by decide

/-- A canonical word and one that is not, both decoded. -/
theorem witness_EncodeOfDecodeIsTheWordExactlyIfCanonical :
    decode 0x00E0 = .ok .op00E0 ∧ Word.canonical 0x00E0 = true ∧ decode 0x0000 = .ok .op00E0 ∧
    Word.canonical 0x0000 = false := by decide

theorem witness_DecodeErrorsAreExactlyTheFourSets :
    (∃ e, decode 0x8FFF = .error e) ∧ Word.wellFormed 0x8FFF = false := ⟨⟨.family8, by decide⟩, by decide⟩

/-- Each clause: a decoded word, a word of a row, and a word of the same row twice. -/
theorem witness_DispatchAgreesWithTheOpcodeMap :
    decode 0xE1FE = .ok (.opEx9E 1) ∧ rowOf (.opEx9E 0) ∈ opcodeTable ∧ (rowOf (.opEx9E 0)).accepts 0xE1FE = true ∧
    rowOf .op00E0 ∈ opcodeTable ∧ (rowOf .op00E0).accepts 0x0FF0 = true := by decide

theorem witness_StepRunsTheDecodedInstruction :
    decode (Claims.nextWord (placed 0x6A42)) = .ok (.op6xkk 10 0x42) ∧
    ∃ u, exec (.op6xkk 10 0x42) (fetch (placed 0x6A42)) = .next u := ⟨by decide +kernel, _, rfl⟩

theorem witness_DecodeErrorCycleOnlyReports :
    decode (Claims.nextWord (placed 0xFFFF)) = .error .familyF := by decide +kernel

/-- Both clauses: an instruction whose sum wraps at the top of memory, and a decode error there. -/
theorem witness_PcAfterTheCycleFollowsTheTable :
    (decode (Claims.nextWord (placeWord (fromPC 0xFFE) 0x3000)) = .ok (.op3xkk 0 0) ∧
      ∃ t, step (placeWord (fromPC 0xFFE) 0x3000) = .next t) ∧
    (decode (Claims.nextWord (placeWord (fromPC 0xFFE) 0x0001)) = .error .family0 ∧
      ∃ t, step (placeWord (fromPC 0xFFE) 0x0001) = .next t) :=
  ⟨⟨by decide +kernel, exists_of_isNext (by decide +kernel)⟩, by decide +kernel, exists_of_isNext (by decide +kernel)⟩

/-- All four clauses: a cycle that writes neither timer, one that writes each. -/
theorem witness_TimersTickInEveryCycle :
    (∃ t, step (placed 0x6000) = .next t) ∧
    (∀ x, decode (Claims.nextWord (placed 0x6000)) ≠ .ok (.opFx15 x)) ∧
    (∀ x, decode (Claims.nextWord (placed 0x6000)) ≠ .ok (.opFx18 x)) ∧
    (∃ t, step (placed 0xF015) = .next t) ∧ decode (Claims.nextWord (placed 0xF015)) = .ok (.opFx15 0) ∧
    (∃ t, step (placed 0xF018) = .next t) ∧ decode (Claims.nextWord (placed 0xF018)) = .ok (.opFx18 0) :=
  ⟨exists_of_isNext (by decide +kernel), by decide +kernel, by decide +kernel, exists_of_isNext (by decide +kernel),
    by decide +kernel, exists_of_isNext (by decide +kernel), by decide +kernel⟩

/-- T34. -/
theorem witness_JumpToItselfIdles :
    (placed 0x1200).pc.toNat < 4096 ∧ decode (Claims.nextWord (placed 0x1200)) = .ok (.op1nnn 0x200) ∧
    (0x200 : Addr).toNat = (placed 0x1200).pc.toNat := by decide +kernel

theorem witness_EveryStepKeepsTheStateInvariant :
    (placeWord (fromPC 0xFFF) 0x2FFF).Inv ∧ ∃ t, step (placeWord (fromPC 0xFFF) 0x2FFF) = .next t :=
  ⟨by decide +kernel, exists_of_isNext (by decide +kernel)⟩

/-- The three events and a cycle without one, each reached by a step. -/
theorem witness_ErrorBitsAreStickyAndSetByEventsOnly :
    (∃ t, step (placed 0x0001) = .next t) ∧ Claims.eventBits (placed 0x0001) 0x0001 = 1 ∧
    (∃ t, step { placed 0x2ABC with sp := 16 } = .next t) ∧ Claims.eventBits { placed 0x2ABC with sp := 16 } 0x2ABC = 2 ∧
    (∃ t, step (placed 0x00EE) = .next t) ∧ Claims.eventBits (placed 0x00EE) 0x00EE = 4 ∧
    (∃ t, step { placed 0x2ABC with sp := 15 } = .next t) ∧
    Claims.eventBits { placed 0x2ABC with sp := 15 } 0x2ABC = 0 :=
  ⟨exists_of_isNext (by decide +kernel), by decide +kernel, exists_of_isNext (by decide +kernel), by decide +kernel,
    exists_of_isNext (by decide +kernel), by decide +kernel, exists_of_isNext (by decide +kernel), by decide +kernel⟩

theorem witness_ErrorBitsDoNotInfluenceExecution : ∃ t, step (placed 0x00EE) = .next t :=
  exists_of_isNext (by decide +kernel)

theorem witness_OnlyThreeInstructionsReadTheKeypad :
    (∀ x, decode (Claims.nextWord (placed 0xF107)) ≠ .ok (.opEx9E x)) ∧
    (∀ x, decode (Claims.nextWord (placed 0xF107)) ≠ .ok (.opExA1 x)) ∧
    (∀ x, decode (Claims.nextWord (placed 0xF107)) ≠ .ok (.opFx0A x)) := by decide +kernel

theorem witness_OnlyCxkkReadsTheRandomByte :
    ∀ x kk, decode (Claims.nextWord (placed 0xF107)) ≠ .ok (.opCxkk x kk) := by
  have h : decode (Claims.nextWord (placed 0xF107)) = .ok (.opFx07 1) := by decide +kernel
  intro x kk
  rw [h]
  nofun

/-- A handler that stores, and an address just below and one just above the stored bytes. -/
theorem witness_HandlersWriteOnlyWhatTheTablesName :
    (∃ t, exec (.opFx33 1) (setI State.reset 0x300) = .next t) ∧
    ¬ Claims.storesTo (setI State.reset 0x300) 0x2FF (.opFx33 1) ∧
    ¬ Claims.storesTo (setI State.reset 0x300) 0x303 (.opFx33 1) := by
  refine ⟨⟨_, rfl⟩, ?_, ?_⟩
  · rintro ⟨i, hi, h⟩
    rw [setI_toNat] at h
    omega
  · rintro ⟨i, hi, h⟩
    rw [setI_toNat] at h
    omega

theorem witness_CanonicalMemoriesThatReadAlikeAreEqual :
    Memory.wf [(0x000, 1), (0xFFF, 2)] = true ∧
    Memory.write (Memory.write [] 0xFFF 2) 0x000 1 = [(0x000, 1), (0xFFF, 2)] := by decide +kernel

/-- The first and the last free slot. -/
theorem witness_CallSavesTheReturnAddress :
    State.reset.sp.val < 16 ∧ ({ State.reset with sp := 15 } : State).sp.val < 16 := by decide

theorem witness_CallOnAFullStackOnlyReports : ({ State.reset with sp := 16 } : State).sp.val = 16 := by decide

/-- One entry and sixteen; and a word of the first clause. -/
theorem witness_ReturnTakesTheLastReturnAddress :
    0 < ({ State.reset with sp := 1 } : State).sp.val ∧ 0 < ({ State.reset with sp := 16 } : State).sp.val ∧
    Word.op 0x0AAE = 0 ∧ Word.low 0x0AAE = 0xE := by decide

theorem witness_ReturnOnAnEmptyStackOnlyReports : State.reset.sp.val = 0 := by decide

theorem witness_ReturnComesBackToAfterTheCall :
    ∃ t u : State, State.reset.pc.toNat < 4096 ∧ State.reset.sp.val < 16 ∧ exec (.op2nnn 0xABC) State.reset = .next t ∧
      u.stack = t.stack ∧ u.sp = t.sp ∧ u.pc = 0x123 :=
  ⟨_, { (setPC { State.reset with stack := State.reset.stack.set 0 0x200, sp := 1 } 0xABC) with pc := 0x123 },
    by decide, by decide, rfl, rfl, rfl, rfl⟩

/-- The flag statements: the registers next to 15, and register 0. -/
theorem witness_AddSetsTheCarryFlag : (14 : Reg) ≠ VF ∧ (0 : Reg) ≠ VF := by decide
theorem witness_SubtractsSetTheFlagIfStrictlyGreater : (14 : Reg) ≠ VF ∧ (0 : Reg) ≠ VF := by decide
theorem witness_ShiftsTakeTheFlagFromTheOldValue : (14 : Reg) ≠ VF ∧ (0 : Reg) ≠ VF := by decide
theorem witness_OldFlagIsTheOperandInRegister15 : (14 : Reg) ≠ VF ∧ (0 : Reg) ≠ VF := by decide

/-- Canonical memory, and an address just outside the three stored bytes, which wrap. -/
theorem witness_DigitsAreStoredHundredsFirst :
    (setI State.reset 0xFFE).mem.wf = true ∧
    (∀ i, i < 3 → 0x001 ≠ ((setI State.reset 0xFFE).I.toNat + i) % 4096) ∧
    (∀ i, i < 3 → 0xFFD ≠ ((setI State.reset 0xFFE).I.toNat + i) % 4096) := by
  refine ⟨rfl, ?_, ?_⟩ <;> · intro i hi; rw [setI_toNat]; omega

/-- The last register of a full block, and an address just outside it. -/
theorem witness_BlockStoreWritesTheRegistersInOrder :
    (setI State.reset 0xFF8).mem.wf = true ∧ (15 : Reg) ≤ (15 : Reg) ∧
    (∀ i, i ≤ (15 : Reg).val → 0x008 ≠ ((setI State.reset 0xFF8).I.toNat + i) % 4096) := by
  refine ⟨rfl, by decide, ?_⟩
  intro i hi
  rw [setI_toNat]
  have : (15 : Reg).val = 15 := rfl
  omega

theorem witness_BlockLoadReadsTheRegistersInOrder : (2 : Reg) ≤ (2 : Reg) ∧ (2 : Reg) < (3 : Reg) := by decide

theorem witness_BlockStoreThenBlockLoadRestores :
    ∃ t u : State, State.reset.mem.wf = true ∧ exec (.opFx55 15) State.reset = .next t ∧ u.mem = t.mem ∧
      u.I = State.reset.I ∧ u.pc = 0x204 ∧ (15 : Reg) ≤ (15 : Reg) := by
  refine ⟨storeBlock State.reset 16, setPC (storeBlock State.reset 16) 0x204, rfl, rfl, rfl, ?_, rfl, by decide⟩
  rw [setPC_I, storeBlock_eq]

/-- The first clause: words of `00E0`, the zero word among them. -/
theorem witness_ClearScreenTurnsEveryCellOff :
    Word.op 0x0000 = 0 ∧ Word.low 0x0000 = 0 ∧ Word.op 0x0FF0 = 0 ∧ Word.low 0x0FF0 = 0 := by decide

/-- Registers other than 15, a first draw, a dark display. -/
theorem witness_DrawingTwiceErases :
    (14 : Reg) ≠ VF ∧ (0 : Reg) ≠ VF ∧ (∃ t, exec (.opDxyn 14 0 15) State.reset = .next t) ∧
    (∀ (r : Fin 32) (c : Fin 64), State.reset.display[r][c] = false) :=
  ⟨by decide, by decide, ⟨_, rfl⟩, fun r c => by simp [State.reset]⟩

/-- Only the highest key held, and only the lowest; the level is the scheduled one. -/
theorem witness_KeyWaitTakesTheLeastHeldKey :
    keys (held State.reset [15]) ≠ 0 ∧ keys (held State.reset [0]) ≠ 0 := by decide +kernel

/-- T124: the wait at the top of memory. -/
theorem witness_KeyWaitRepeatsWhileNoKeyIsHeld :
    (held (placeWord (fromPC 0xFFE) 0xF10A) []).pc.toNat < 4096 ∧
    decode (Claims.nextWord (held (placeWord (fromPC 0xFFE) 0xF10A) [])) = .ok (.opFx0A 1) ∧
    keys (held (placeWord (fromPC 0xFFE) 0xF10A) []) = 0 := by decide +kernel

/-- The memory clauses: the addresses on both sides of the font, the first glyph byte and the last, the top of memory. -/
theorem witness_ResetLeavesPcAt0x200FontAndZeros :
    0x04F < 4096 ∧ ¬ (0x050 ≤ 0x04F ∧ 0x04F ≤ 0x09F) ∧ 0x0A0 < 4096 ∧ ¬ (0x050 ≤ 0x0A0 ∧ 0x0A0 ≤ 0x09F) ∧
    0xFFF < 4096 ∧ ¬ (0x050 ≤ 0xFFF ∧ 0xFFF ≤ 0x09F) ∧
    0x050 + 5 * (0 : Fin 16).val + (0 : Fin 5).val = 0x050 ∧
    0x050 + 5 * (15 : Fin 16).val + (4 : Fin 5).val = 0x09F := by decide

/-- Both clauses at the limit of 3584 bytes. -/
theorem witness_BootPlacesFontAndImage :
    3584 < (List.replicate 3585 (0xAA : Byte)).length ∧ (List.replicate 3584 (0xAA : Byte)).length ≤ 3584 := by
  simp only [List.length_replicate]; decide


end Sys2Proof.Tests
end

/-! Fields of a word as numbers, and the encodings of family F; then the frame of every operation and every handler, and
with them the statements O18 and O48. -/

namespace Sys2Proof

/-! ## The fields of a word as numbers, and family F -/

theorem fieldOp_toNat (w : Word) : (fieldOp w).toNat = w.op := by
  have := w.isLt
  rw [fieldOp, BitVec.extractLsb'_toNat, Nat.shiftRight_eq_div_pow, Word.op]
  omega

theorem fieldX_val (w : Word) : (fieldX w).val = w.toNat / 256 % 16 := by
  rw [fieldX, BitVec.val_toFin, BitVec.extractLsb'_toNat, Nat.shiftRight_eq_div_pow]

theorem fieldKK_toNat (w : Word) : (fieldKK w).toNat = w.lowByte := by
  rw [fieldKK, BitVec.extractLsb'_toNat, Nat.shiftRight_zero, Word.lowByte]

theorem decode_of_op_eq_F {w : Word} (h : w.op = 0xF) : decode w = decodeFamilyF w := by
  have hop : fieldOp w = 0xF := BitVec.eq_of_toNat_eq ((fieldOp_toNat w).trans h)
  simp [decode, hop]

/-- An arm of family F is an encoding in format XS. -/
theorem encodedXS_of_decodeFamilyF {n : Nat} {f : Reg → Instr} (hn : n < 256)
    (harm : ∀ w, fieldKK w = BitVec.ofNat 8 n → decodeFamilyF w = .ok (f (fieldX w))) : Claims.EncodedXS n f := by
  intro w hop hlow
  have hkk : fieldKK w = BitVec.ofNat 8 n := by
    apply BitVec.eq_of_toNat_eq
    rw [fieldKK_toNat, hlow, BitVec.toNat_ofNat, Nat.mod_eq_of_lt hn]
  exact ⟨fieldX w, by rw [decode_of_op_eq_F hop, harm w hkk], fieldX_val w⟩

theorem encodedXS_opFx07 : Claims.EncodedXS 0x07 .opFx07 :=
  encodedXS_of_decodeFamilyF (by decide) fun w h => by simp [decodeFamilyF, h]

theorem encodedXS_opFx15 : Claims.EncodedXS 0x15 .opFx15 :=
  encodedXS_of_decodeFamilyF (by decide) fun w h => by simp [decodeFamilyF, h]

theorem encodedXS_opFx18 : Claims.EncodedXS 0x18 .opFx18 :=
  encodedXS_of_decodeFamilyF (by decide) fun w h => by simp [decodeFamilyF, h]

end Sys2Proof

namespace Sys2Proof.Machine

/-! ## Frames -/

section Frames

variable {fs gs : List Field} {rs : List Reg} {s t u : State}

theorem OnlyChanges.refl (fs : List Field) (s : State) : OnlyChanges fs s s := by
  intro f _
  cases f with
  | V | mem => exact fun _ => rfl
  | _ => rfl

theorem State.same_trans {f : Field} (hst : State.same f s t) (htu : State.same f t u) : State.same f s u := by
  cases f with
  | V | mem => exact fun k => (htu k).trans (hst k)
  | _ => exact Eq.trans htu hst

theorem OnlyChanges.trans (hst : OnlyChanges fs s t) (htu : OnlyChanges fs t u) : OnlyChanges fs s u :=
  fun f hf => State.same_trans (hst f hf) (htu f hf)

theorem OnlyChanges.mono (h : OnlyChanges fs s t) (hfg : fs ⊆ gs) : OnlyChanges gs s t :=
  fun f hf => h f fun hfs => hf (hfg hfs)

/-- A frame that does not name `V` keeps every register. -/
theorem OnlyChanges.regs (h : OnlyChanges fs s t) (hV : Field.V ∉ fs) : OnlyChangesRegs rs s t :=
  fun r _ => h .V hV r

/-- A frame that does not name memory keeps every byte. -/
theorem OnlyChanges.readByte (h : OnlyChanges fs s t) (hmem : Field.mem ∉ fs) (a : Nat) :
    readByte t a = readByte s a := h .mem hmem a

end Frames

/-! ## The frame of each operation

For an update of one or two fields: the named fields are excluded by the premise, and every other field is unchanged by the
operation's own `simp` lemma. A composed operation takes its frame from its parts. -/

section OperationFrames

variable (s : State)

theorem writeByte_onlyChanges (a : Nat) (v : Byte) : OnlyChanges [.mem] s (writeByte s a v) :=
  fun f hf => by cases f <;> simp_all [State.same, reg]

theorem setPC_onlyChanges (a : Nat) : OnlyChanges [.pc] s (setPC s a) :=
  fun f hf => by cases f <;> simp_all [State.same, reg, readByte]

theorem setI_onlyChanges (a : Nat) : OnlyChanges [.I] s (setI s a) :=
  fun f hf => by cases f <;> simp_all [State.same, reg, readByte]

theorem setReg_onlyChanges (x : Reg) (v : Byte) : OnlyChanges [.V] s (setReg s x v) :=
  fun f hf => by cases f <;> simp_all [State.same, readByte]

theorem setDT_onlyChanges (v : Byte) : OnlyChanges [.DT] s (setDT s v) :=
  fun f hf => by cases f <;> simp_all [State.same, reg, readByte]

theorem setST_onlyChanges (v : Byte) : OnlyChanges [.ST] s (setST s v) :=
  fun f hf => by cases f <;> simp_all [State.same, reg, readByte]

theorem setDisplay_onlyChanges (d : Display) : OnlyChanges [.display] s (setDisplay s d) :=
  fun f hf => by cases f <;> simp_all [State.same, reg, readByte]

theorem raise_onlyChanges (e : ErrorEvent) : OnlyChanges [.ERR] s (raise e s) :=
  fun f hf => by cases f <;> simp_all [State.same, reg, readByte]

theorem writeFlagThenResult_onlyChanges (b : Bool) (x : Reg) (v : Byte) :
    OnlyChanges [.V] s (writeFlagThenResult s b x v) :=
  (setReg_onlyChanges s VF _).trans (setReg_onlyChanges _ x v)

theorem skipIf_onlyChanges (c : Bool) : OnlyChanges [.pc] s (skipIf s c) := by
  cases c with
  | false => exact .refl _ s
  | true => exact setPC_onlyChanges s _

theorem rewind_onlyChanges : OnlyChanges [.pc] s (rewind s) := setPC_onlyChanges s _

theorem push_onlyChanges {s s1 : State} {a : Word} (h : push s a = some s1) : OnlyChanges [.stack, .sp] s s1 := by
  obtain ⟨_, rfl⟩ := push_cases h
  intro f hf
  cases f <;> simp_all [State.same, reg, readByte]

theorem pop_onlyChanges {s s1 : State} {a : Word} (h : pop s = some (a, s1)) : OnlyChanges [.sp] s s1 := by
  obtain ⟨_, _, rfl⟩ := pop_cases h
  intro f hf
  cases f <;> simp_all [State.same, reg, readByte]

theorem storeDigits_onlyChanges (v : Byte) : OnlyChanges [.mem] s (storeDigits s v) :=
  ((writeByte_onlyChanges s _ _).trans (writeByte_onlyChanges _ _ _)).trans (writeByte_onlyChanges _ _ _)

theorem storeBlock_onlyChanges (n : Nat) : OnlyChanges [.mem] s (storeBlock s n) := by
  induction n with
  | zero => exact .refl _ s
  | succ n ih => exact ih.trans (writeByte_onlyChanges _ _ _)

theorem loadBlock_onlyChanges (n : Nat) : OnlyChanges [.V] s (loadBlock s n) := by
  induction n with
  | zero => exact .refl _ s
  | succ n ih => exact ih.trans (setReg_onlyChanges _ _ _)

end OperationFrames

/-! ## Single registers and single bytes -/

section Pointwise

variable (s : State)

theorem setReg_onlyChangesRegs (x : Reg) (v : Byte) : OnlyChangesRegs [x] s (setReg s x v) := by
  intro r hr
  rw [reg_setReg, if_neg (List.mem_singleton.not.mp hr)]

theorem writeFlagThenResult_onlyChangesRegs (b : Bool) (x : Reg) (v : Byte) :
    OnlyChangesRegs [x, VF] s (writeFlagThenResult s b x v) := by
  intro r hr
  obtain ⟨hx, hVF⟩ : r ≠ x ∧ r ≠ VF := by simpa using hr
  rw [reg_writeFlagThenResult, if_neg hx, if_neg hVF]

/-- A block load of `n` registers leaves register `n` and those above it alone. -/
theorem reg_loadBlock_of_le {n : Nat} {r : Reg} (hr : n ≤ r.val) : reg (loadBlock s n) r = reg s r := by
  induction n with
  | zero => rfl
  | succ n ih =>
    have hne : r ≠ blockReg n := by
      intro h
      have : r.val = n % 16 := congrArg Fin.val h
      omega
    rw [loadBlock, reg_setReg, if_neg hne, ih (by omega)]

/-- `Fx33` leaves every address but its three alone. -/
theorem readByte_storeDigits_of_ne (v : Byte) {a : Nat} (ha : ∀ i, i < 3 → a % 4096 ≠ (s.I.toNat + i) % 4096) :
    readByte (storeDigits s v) a = readByte s a := by
  have hne : ∀ i, i < 3 → a % 4096 ≠ effectiveAddress s i % 4096 := fun i hi => by
    rw [effectiveAddress_eq, Nat.mod_mod]; exact ha i hi
  rw [storeDigits, readByte_writeByte_of_ne _ _ _ (hne 2 (by decide)),
    readByte_writeByte_of_ne _ _ _ (hne 1 (by decide)), readByte_writeByte_of_ne _ _ _ (hne 0 (by decide))]

/-- A block store of `n` bytes leaves every address but those `n` alone. -/
theorem readByte_storeBlock_of_ne {n a : Nat} (ha : ∀ i, i < n → a % 4096 ≠ (s.I.toNat + i) % 4096) :
    readByte (storeBlock s n) a = readByte s a := by
  induction n with
  | zero => rfl
  | succ n ih =>
    have hne : a % 4096 ≠ effectiveAddress s n % 4096 := by
      rw [effectiveAddress_eq, Nat.mod_mod]; exact ha n n.lt_succ_self
    rw [storeBlock, readByte_writeByte_of_ne _ _ _ hne, ih fun i hi => ha i (by omega)]

end Pointwise

/-! ## What each handler writes -/

section HandlerFrames

variable {s t : State}

theorem exec00EE_onlyChanges (h : exec00EE s = .next t) : OnlyChanges [.sp, .pc, .ERR] s t := by
  obtain rfl := Host.Outcome.next.inj h
  cases hp : pop s with
  | none => exact (raise_onlyChanges s .sunf).mono (by simp)
  | some p =>
    exact ((pop_onlyChanges hp).mono (by simp)).trans ((setPC_onlyChanges p.2 _).mono (by simp))

theorem exec2nnn_onlyChanges {nnn : Addr} (h : exec2nnn nnn s = .next t) :
    OnlyChanges [.stack, .sp, .pc, .ERR] s t := by
  obtain rfl := Host.Outcome.next.inj h
  cases hp : push s s.pc with
  | none => exact (raise_onlyChanges s .sovf).mono (by simp)
  | some s1 => exact ((push_onlyChanges hp).mono (by simp)).trans ((setPC_onlyChanges s1 _).mono (by simp))

theorem execDxyn_onlyChanges {x y : Reg} {n : Fin 16} (h : execDxyn x y n s = .next t) :
    OnlyChanges [.V, .display] s t := by
  obtain rfl := Host.Outcome.next.inj h
  exact ((setDisplay_onlyChanges s _).mono (by simp)).trans ((setReg_onlyChanges _ VF _).mono (by simp))

theorem execFx0A_onlyChanges {x : Reg} (h : execFx0A x s = .next t) : OnlyChanges [.V, .pc] s t := by
  obtain rfl := Host.Outcome.next.inj h
  cases leastKey s with
  | none => exact (rewind_onlyChanges s).mono (by simp)
  | some k => exact (setReg_onlyChanges s x _).mono (by simp)

theorem execFx0A_onlyChangesRegs {x : Reg} (h : execFx0A x s = .next t) : OnlyChangesRegs [x] s t := by
  obtain rfl := Host.Outcome.next.inj h
  cases leastKey s with
  | none => exact (rewind_onlyChanges s).regs (by simp)
  | some k => exact setReg_onlyChangesRegs s x _

theorem execDxyn_onlyChangesRegs {x y : Reg} {n : Fin 16} (h : execDxyn x y n s = .next t) :
    OnlyChangesRegs [VF] s t := by
  obtain rfl := Host.Outcome.next.inj h
  exact setReg_onlyChangesRegs (setDisplay s _) VF _

/-- Every handler changes only the pieces of state that spec/10_state.md section 8 names for it. -/
theorem exec_onlyChanges {i : Instr} (h : exec i s = .next t) : OnlyChanges (Claims.stateWritten i) s t := by
  cases i with
  | op00EE => exact exec00EE_onlyChanges h
  | op2nnn nnn => exact exec2nnn_onlyChanges h
  | opDxyn x y n => exact execDxyn_onlyChanges h
  | opFx0A x => exact execFx0A_onlyChanges h
  | op00E0 => obtain rfl := Host.Outcome.next.inj h; exact setDisplay_onlyChanges s _
  | op1nnn | opBnnn => obtain rfl := Host.Outcome.next.inj h; exact setPC_onlyChanges s _
  | op3xkk | op4xkk | op5xy0 | op9xy0 | opEx9E | opExA1 =>
    obtain rfl := Host.Outcome.next.inj h; exact skipIf_onlyChanges s _
  | op6xkk | op7xkk | op8xy0 | op8xy1 | op8xy2 | op8xy3 | opCxkk | opFx07 =>
    obtain rfl := Host.Outcome.next.inj h; exact setReg_onlyChanges s _ _
  | op8xy4 | op8xy5 | op8xy6 | op8xy7 | op8xyE =>
    obtain rfl := Host.Outcome.next.inj h; exact writeFlagThenResult_onlyChanges s _ _ _
  | opAnnn | opFx1E | opFx29 => obtain rfl := Host.Outcome.next.inj h; exact setI_onlyChanges s _
  | opFx15 => obtain rfl := Host.Outcome.next.inj h; exact setDT_onlyChanges s _
  | opFx18 => obtain rfl := Host.Outcome.next.inj h; exact setST_onlyChanges s _
  | opFx33 => obtain rfl := Host.Outcome.next.inj h; exact storeDigits_onlyChanges s _
  | opFx55 => obtain rfl := Host.Outcome.next.inj h; exact storeBlock_onlyChanges s _
  | opFx65 => obtain rfl := Host.Outcome.next.inj h; exact loadBlock_onlyChanges s _

/-- Every handler changes only the registers that the table of spec/10_state.md R11 names for it. -/
theorem exec_onlyChangesRegs {i : Instr} (h : exec i s = .next t) :
    OnlyChangesRegs (Claims.registersWritten i) s t := by
  have hframe := exec_onlyChanges h
  cases i with
  | opDxyn x y n => exact execDxyn_onlyChangesRegs h
  | opFx0A x => exact execFx0A_onlyChangesRegs h
  | op6xkk | op7xkk | op8xy0 | op8xy1 | op8xy2 | op8xy3 | opCxkk | opFx07 =>
    obtain rfl := Host.Outcome.next.inj h; exact setReg_onlyChangesRegs s _ _
  | op8xy4 | op8xy5 | op8xy6 | op8xy7 | op8xyE =>
    obtain rfl := Host.Outcome.next.inj h; exact writeFlagThenResult_onlyChangesRegs s _ _ _
  | opFx65 x =>
    obtain rfl := Host.Outcome.next.inj h
    intro r hr
    have hxr : x.val < r.val := by simpa [Claims.registersWritten] using hr
    exact reg_loadBlock_of_le s hxr
  | _ => exact hframe.regs (by simp [Claims.stateWritten])

/-- Every handler stores only to the addresses of spec/20_memory.md R34. -/
theorem exec_readByte_of_not_storesTo {i : Instr} (h : exec i s = .next t) {a : Nat} (ha : a < 4096)
    (hstore : ¬ Claims.storesTo s a i) : readByte t a = readByte s a := by
  have hframe := exec_onlyChanges h
  cases i with
  | opFx33 x =>
    obtain rfl := Host.Outcome.next.inj h
    refine readByte_storeDigits_of_ne s _ fun i hi heq => hstore ⟨i, hi, ?_⟩
    rwa [Nat.mod_eq_of_lt ha] at heq
  | opFx55 x =>
    obtain rfl := Host.Outcome.next.inj h
    refine readByte_storeBlock_of_ne s fun i hi heq => hstore ⟨i, Nat.le_of_lt_succ hi, ?_⟩
    rwa [Nat.mod_eq_of_lt ha] at heq
  | _ => exact hframe.readByte (by simp [Claims.stateWritten]) a

end HandlerFrames

/-- Settles O18, handler by handler from the frame of the operations it is written with. -/
theorem handlersWriteOnlyWhatTheTablesName : Obligations.HandlersWriteOnlyWhatTheTablesName :=
  fun _ _ _ h => ⟨exec_onlyChanges h, exec_onlyChangesRegs h, fun _ => exec_readByte_of_not_storesTo h⟩

/-- Settles O48: family F decodes the three words, and each handler is one write with the frame of that write. -/
theorem timerInstructionsMoveOneByte : Obligations.TimerInstructionsMoveOneByte := by
  refine ⟨encodedXS_opFx07, encodedXS_opFx15, encodedXS_opFx18, fun s x => ⟨?_, ?_, ?_⟩⟩
  · exact ⟨setReg s x s.DT, rfl, by rw [reg_setReg, if_pos rfl], setReg_onlyChangesRegs s x _, setReg_onlyChanges s x _⟩
  · exact ⟨setDT s (reg s x), rfl, rfl, setDT_onlyChanges s _⟩
  · exact ⟨setST s (reg s x), rfl, rfl, setST_onlyChanges s _⟩

end Sys2Proof.Machine

/-! Encoding and decoding (spec/30_encoding.md): what the decoder does is said once, by the rows of the opcode map and the
four sets of R54 (`decode_eq_iff`), and with it the statements O2, O3, O4 and O5. -/

namespace Sys2Proof

/-! ## The fields of a word and the formats of the encoder

Each field of an encoded word is the operand put there, and a word is the encoding of its own fields; together: an encoded
word is `w` exactly if the fields of `w` are its operands. -/

theorem fieldSub_toNat (w : Word) : (fieldSub w).toNat = w.low := by
  rw [fieldSub, BitVec.extractLsb'_toNat, Nat.shiftRight_zero, Word.low]

section Formats

variable (op : BitVec 4) (x y : Reg) (n : BitVec 4) (kk : Byte) (nnn : Addr) (w : Word)

theorem encodeXKK_eq_encodeNNN : encodeXKK op x kk = encodeNNN op (nibble x ++ kk) := BitVec.append_assoc

theorem encodeXYN_eq_encodeXKK : encodeXYN op x y n = encodeXKK op x (nibble y ++ n) := BitVec.append_assoc

@[simp] theorem fieldOp_encodeNNN : fieldOp (encodeNNN op nnn) = op := BitVec.extractLsb'_append_eq_left

@[simp] theorem fieldNNN_encodeNNN : fieldNNN (encodeNNN op nnn) = nnn := BitVec.extractLsb'_append_eq_right

@[simp] theorem fieldOp_encodeXKK : fieldOp (encodeXKK op x kk) = op := by
  rw [encodeXKK_eq_encodeNNN, fieldOp_encodeNNN]

@[simp] theorem fieldX_encodeXKK : fieldX (encodeXKK op x kk) = x :=
  congrArg BitVec.toFin ((BitVec.extractLsb'_append_eq_of_le (by decide)).trans BitVec.extractLsb'_append_eq_right)

@[simp] theorem fieldKK_encodeXKK : fieldKK (encodeXKK op x kk) = kk := BitVec.extractLsb'_append_eq_right

@[simp] theorem fieldOp_encodeXYN : fieldOp (encodeXYN op x y n) = op := by
  rw [encodeXYN_eq_encodeXKK, fieldOp_encodeXKK]

@[simp] theorem fieldX_encodeXYN : fieldX (encodeXYN op x y n) = x := by
  rw [encodeXYN_eq_encodeXKK, fieldX_encodeXKK]

@[simp] theorem fieldY_encodeXYN : fieldY (encodeXYN op x y n) = y :=
  congrArg BitVec.toFin ((BitVec.extractLsb'_append_eq_of_le (by decide)).trans BitVec.extractLsb'_append_eq_right)

@[simp] theorem fieldSub_encodeXYN : fieldSub (encodeXYN op x y n) = n := BitVec.extractLsb'_append_eq_right

@[simp] theorem fieldN_encodeXYN (n : Fin 16) : fieldN (encodeXYN op x y (nibble n)) = n :=
  congrArg BitVec.toFin BitVec.extractLsb'_append_eq_right

theorem fieldSub_encodeXKK : fieldSub (encodeXKK op x kk) = kk.extractLsb' 0 4 :=
  BitVec.extractLsb'_append_eq_of_add_le (by decide)

theorem nibble_fieldN : nibble (fieldN w) = fieldSub w := rfl

theorem nibble_fieldX_append_fieldKK : nibble (fieldX w) ++ fieldKK w = fieldNNN w :=
  BitVec.extractLsb'_append_extractLsb'_eq_extractLsb' rfl

theorem nibble_fieldY_append_fieldSub : nibble (fieldY w) ++ fieldSub w = fieldKK w :=
  BitVec.extractLsb'_append_extractLsb'_eq_extractLsb' rfl

theorem encodeNNN_fields : encodeNNN (fieldOp w) (fieldNNN w) = w :=
  (BitVec.extractLsb'_append_extractLsb'_eq_extractLsb' rfl).trans BitVec.extractLsb'_eq_self

theorem encodeXKK_fields : encodeXKK (fieldOp w) (fieldX w) (fieldKK w) = w := by
  rw [encodeXKK_eq_encodeNNN, nibble_fieldX_append_fieldKK, encodeNNN_fields]

theorem encodeXYN_fields : encodeXYN (fieldOp w) (fieldX w) (fieldY w) (fieldSub w) = w := by
  rw [encodeXYN_eq_encodeXKK, nibble_fieldY_append_fieldSub, encodeXKK_fields]

theorem fieldSub_eq_extractLsb'_fieldKK : fieldSub w = (fieldKK w).extractLsb' 0 4 := by
  rw [← fieldSub_encodeXKK (fieldOp w) (fieldX w), encodeXKK_fields]

variable {op x y n kk nnn w}

theorem encodeNNN_eq_iff : encodeNNN op nnn = w ↔ fieldOp w = op ∧ fieldNNN w = nnn := by
  constructor
  · rintro rfl; simp
  · rintro ⟨rfl, rfl⟩; exact encodeNNN_fields w

theorem encodeXKK_eq_iff : encodeXKK op x kk = w ↔ fieldOp w = op ∧ fieldX w = x ∧ fieldKK w = kk := by
  constructor
  · rintro rfl; simp
  · rintro ⟨rfl, rfl, rfl⟩; exact encodeXKK_fields w

theorem encodeXYN_eq_iff :
    encodeXYN op x y n = w ↔ fieldOp w = op ∧ fieldX w = x ∧ fieldY w = y ∧ fieldSub w = n := by
  constructor
  · rintro rfl; simp
  · rintro ⟨rfl, rfl, rfl, rfl⟩; exact encodeXYN_fields w

end Formats

/-! ## Which words a row accepts, by the fields its mask keeps

Three masks serve the 34 rows: the first-level index alone, with the low nibble, or with the low byte. -/

section Masks

variable {r : OpcodeRow} {w : Word} {op n : BitVec 4} {kk : Byte} {m : String} {p cm cp : Word}

theorem accepts_of_fieldOp (hop : fieldOp w = op) (hm : r.mask = 0xF000) (hp : encodeNNN op 0 = r.pattern) :
    r.accepts w = true := by
  rw [OpcodeRow.accepts, hm, ← encodeNNN_fields w, encodeNNN_mask, hop, hp, beq_self_eq_true]

theorem accepts_of_fieldOp_fieldSub (hop : fieldOp w = op) (hsub : fieldSub w = n) (hm : r.mask = 0xF00F)
    (hp : encodeXYN op 0 0 n = r.pattern) : r.accepts w = true := by
  rw [OpcodeRow.accepts, hm, ← encodeXYN_fields w, encodeXYN_mask_sub, hop, hsub, hp, beq_self_eq_true]

theorem accepts_of_fieldOp_fieldKK (hop : fieldOp w = op) (hkk : fieldKK w = kk) (hm : r.mask = 0xF0FF)
    (hp : encodeXKK op 0 kk = r.pattern) : r.accepts w = true := by
  rw [OpcodeRow.accepts, hm, ← encodeXKK_fields w, encodeXKK_mask_sub, hop, hkk, hp, beq_self_eq_true]

theorem fieldOp_of_accepts (h : (OpcodeRow.mk m 0xF000 p cm cp).accepts w = true) : fieldOp w = fieldOp p := by
  rw [OpcodeRow.accepts, beq_iff_eq, ← encodeNNN_fields w, encodeNNN_mask, encodeNNN_eq_iff] at h
  exact h.1.symm

theorem fieldOp_fieldSub_of_accepts (h : (OpcodeRow.mk m 0xF00F p cm cp).accepts w = true) :
    fieldOp w = fieldOp p ∧ fieldSub w = fieldSub p := by
  rw [OpcodeRow.accepts, beq_iff_eq, ← encodeXYN_fields w, encodeXYN_mask_sub, encodeXYN_eq_iff] at h
  obtain ⟨hop, -, -, hsub⟩ := h
  exact ⟨hop.symm, hsub.symm⟩

theorem fieldOp_fieldKK_of_accepts (h : (OpcodeRow.mk m 0xF0FF p cm cp).accepts w = true) :
    fieldOp w = fieldOp p ∧ fieldKK w = fieldKK p := by
  rw [OpcodeRow.accepts, beq_iff_eq, ← encodeXKK_fields w, encodeXKK_mask_sub, encodeXKK_eq_iff] at h
  obtain ⟨hop, -, hlow⟩ := h
  exact ⟨hop.symm, hlow.symm⟩

end Masks

/-! ## The four sets of R54, by the fields of the word -/

section Sets

variable {w : Word}

theorem family0WellFormed_eq_false_iff :
    family0WellFormed w = false ↔ fieldOp w = 0x0 ∧ fieldSub w ∉ ([0x0, 0xE] : List (BitVec 4)) := by
  simp [family0WellFormed, BitVec.toNat_eq, fieldOp_toNat, fieldSub_toNat]

theorem family8WellFormed_eq_false_iff :
    family8WellFormed w = false ↔ fieldOp w = 0x8 ∧
      fieldSub w ∉ ([0x0, 0x1, 0x2, 0x3, 0x4, 0x5, 0x6, 0x7, 0xE] : List (BitVec 4)) := by
  simp [family8WellFormed, BitVec.toNat_eq, fieldOp_toNat, fieldSub_toNat]

theorem familyEWellFormed_eq_false_iff :
    familyEWellFormed w = false ↔ fieldOp w = 0xE ∧ fieldSub w ∉ ([0x1, 0xE] : List (BitVec 4)) := by
  simp [familyEWellFormed, BitVec.toNat_eq, fieldOp_toNat, fieldSub_toNat]

theorem familyFWellFormed_eq_false_iff :
    familyFWellFormed w = false ↔ fieldOp w = 0xF ∧
      fieldKK w ∉ ([0x07, 0x0A, 0x15, 0x18, 0x1E, 0x29, 0x33, 0x55, 0x65] : List Byte) := by
  simp [familyFWellFormed, BitVec.toNat_eq, fieldOp_toNat, fieldKK_toNat]

end Sets

/-! ## What the decoder does, said once -/

/-- The instruction of the same row with its operands read from the word. -/
def Instr.readOperands (w : Word) : Instr → Instr
  | .op00E0 => .op00E0
  | .op00EE => .op00EE
  | .op1nnn _ => .op1nnn (fieldNNN w)
  | .op2nnn _ => .op2nnn (fieldNNN w)
  | .op3xkk _ _ => .op3xkk (fieldX w) (fieldKK w)
  | .op4xkk _ _ => .op4xkk (fieldX w) (fieldKK w)
  | .op5xy0 _ _ => .op5xy0 (fieldX w) (fieldY w)
  | .op6xkk _ _ => .op6xkk (fieldX w) (fieldKK w)
  | .op7xkk _ _ => .op7xkk (fieldX w) (fieldKK w)
  | .op8xy0 _ _ => .op8xy0 (fieldX w) (fieldY w)
  | .op8xy1 _ _ => .op8xy1 (fieldX w) (fieldY w)
  | .op8xy2 _ _ => .op8xy2 (fieldX w) (fieldY w)
  | .op8xy3 _ _ => .op8xy3 (fieldX w) (fieldY w)
  | .op8xy4 _ _ => .op8xy4 (fieldX w) (fieldY w)
  | .op8xy5 _ _ => .op8xy5 (fieldX w) (fieldY w)
  | .op8xy6 _ _ => .op8xy6 (fieldX w) (fieldY w)
  | .op8xy7 _ _ => .op8xy7 (fieldX w) (fieldY w)
  | .op8xyE _ _ => .op8xyE (fieldX w) (fieldY w)
  | .op9xy0 _ _ => .op9xy0 (fieldX w) (fieldY w)
  | .opAnnn _ => .opAnnn (fieldNNN w)
  | .opBnnn _ => .opBnnn (fieldNNN w)
  | .opCxkk _ _ => .opCxkk (fieldX w) (fieldKK w)
  | .opDxyn _ _ _ => .opDxyn (fieldX w) (fieldY w) (fieldN w)
  | .opEx9E _ => .opEx9E (fieldX w)
  | .opExA1 _ => .opExA1 (fieldX w)
  | .opFx07 _ => .opFx07 (fieldX w)
  | .opFx0A _ => .opFx0A (fieldX w)
  | .opFx15 _ => .opFx15 (fieldX w)
  | .opFx18 _ => .opFx18 (fieldX w)
  | .opFx1E _ => .opFx1E (fieldX w)
  | .opFx29 _ => .opFx29 (fieldX w)
  | .opFx33 _ => .opFx33 (fieldX w)
  | .opFx55 _ => .opFx55 (fieldX w)
  | .opFx65 _ => .opFx65 (fieldX w)

/-- The result that the opcode map (spec/30_encoding.md section 4) and R54 give for a word, written without the dispatch:
an instruction whose row accepts the word and whose operands are the word's fields, or the error of the set the word lies
in. -/
def IsDecoding (w : Word) : Except DecodeError Instr → Prop
  | .ok i => (rowOf i).accepts w = true ∧ i.readOperands w = i
  | .error .family0 => family0WellFormed w = false
  | .error .family8 => family8WellFormed w = false
  | .error .familyE => familyEWellFormed w = false
  | .error .familyF => familyFWellFormed w = false

section Decoder

variable {w : Word}

/-- One level of the decoder's selection chain. -/
theorem isDecoding_ite {c : Prop} [Decidable c] {r r' : Except DecodeError Instr} (hr : c → IsDecoding w r)
    (hr' : ¬c → IsDecoding w r') : IsDecoding w (if c then r else r') := iteInduction hr hr'

theorem isDecoding_decodeFamily0 (hop : fieldOp w = 0x0) : IsDecoding w (decodeFamily0 w) := by
  unfold decodeFamily0
  iterate 2 refine isDecoding_ite (fun h => ⟨accepts_of_fieldOp_fieldSub hop h rfl rfl, rfl⟩) fun _ => ?_
  exact family0WellFormed_eq_false_iff.mpr (by simp_all)

theorem isDecoding_decodeFamily8 (hop : fieldOp w = 0x8) : IsDecoding w (decodeFamily8 w) := by
  unfold decodeFamily8
  iterate 9 refine isDecoding_ite (fun h => ⟨accepts_of_fieldOp_fieldSub hop h rfl rfl, rfl⟩) fun _ => ?_
  exact family8WellFormed_eq_false_iff.mpr (by simp_all)

theorem isDecoding_decodeFamilyE (hop : fieldOp w = 0xE) : IsDecoding w (decodeFamilyE w) := by
  unfold decodeFamilyE
  iterate 2 refine isDecoding_ite (fun h => ⟨accepts_of_fieldOp_fieldSub hop h rfl rfl, rfl⟩) fun _ => ?_
  exact familyEWellFormed_eq_false_iff.mpr (by simp_all)

theorem isDecoding_decodeFamilyF (hop : fieldOp w = 0xF) : IsDecoding w (decodeFamilyF w) := by
  unfold decodeFamilyF
  iterate 9 refine isDecoding_ite (fun h => ⟨accepts_of_fieldOp_fieldKK hop h rfl rfl, rfl⟩) fun _ => ?_
  exact familyFWellFormed_eq_false_iff.mpr (by simp_all)

theorem isDecoding_decode (w : Word) : IsDecoding w (decode w) := by
  unfold decode
  refine isDecoding_ite isDecoding_decodeFamily0 fun _ => ?_
  iterate 7 refine isDecoding_ite (fun h => ⟨accepts_of_fieldOp h rfl rfl, rfl⟩) fun _ => ?_
  refine isDecoding_ite isDecoding_decodeFamily8 fun _ => ?_
  iterate 5 refine isDecoding_ite (fun h => ⟨accepts_of_fieldOp h rfl rfl, rfl⟩) fun _ => ?_
  refine isDecoding_ite isDecoding_decodeFamilyE fun _ => ?_
  exact isDecoding_decodeFamilyF (by bv_omega)

theorem decode_eq_ok_of_isDecoding {i : Instr} (h : IsDecoding w (.ok i)) : decode w = .ok i := by
  obtain ⟨hacc, hi⟩ := h
  rw [← hi]
  cases i with
  | op00E0 | op00EE =>
    obtain ⟨hop, hsub⟩ := fieldOp_fieldSub_of_accepts hacc
    rw [decode, hop, decodeFamily0, hsub]; rfl
  | op8xy0 | op8xy1 | op8xy2 | op8xy3 | op8xy4 | op8xy5 | op8xy6 | op8xy7 | op8xyE =>
    obtain ⟨hop, hsub⟩ := fieldOp_fieldSub_of_accepts hacc
    rw [decode, hop, decodeFamily8, hsub]; rfl
  | opEx9E | opExA1 =>
    obtain ⟨hop, hsub⟩ := fieldOp_fieldSub_of_accepts hacc
    rw [decode, hop, decodeFamilyE, hsub]; rfl
  | opFx07 | opFx0A | opFx15 | opFx18 | opFx1E | opFx29 | opFx33 | opFx55 | opFx65 =>
    obtain ⟨hop, hlow⟩ := fieldOp_fieldKK_of_accepts hacc
    rw [decode, hop, decodeFamilyF, hlow]; rfl
  | _ => rw [decode, fieldOp_of_accepts hacc]; rfl

theorem decode_eq_error_of_isDecoding {e : DecodeError} (h : IsDecoding w (.error e)) : decode w = .error e := by
  cases e with
  | family0 =>
    obtain ⟨hop, hsub⟩ := family0WellFormed_eq_false_iff.mp h
    simp_all [decode, decodeFamily0]
  | family8 =>
    obtain ⟨hop, hsub⟩ := family8WellFormed_eq_false_iff.mp h
    simp_all [decode, decodeFamily8]
  | familyE =>
    obtain ⟨hop, hsub⟩ := familyEWellFormed_eq_false_iff.mp h
    simp_all [decode, decodeFamilyE]
  | familyF =>
    obtain ⟨hop, hlow⟩ := familyFWellFormed_eq_false_iff.mp h
    simp_all [decode, decodeFamilyF]

/-- The decoder is what the opcode map and R54 say, on every word. -/
theorem decode_eq_iff {r : Except DecodeError Instr} : decode w = r ↔ IsDecoding w r := by
  constructor
  · rintro rfl; exact isDecoding_decode w
  · cases r with
    | ok i => exact decode_eq_ok_of_isDecoding
    | error e => exact decode_eq_error_of_isDecoding

end Decoder

/-! ## Rows and encoded words -/

theorem rowOf_mem_opcodeTable (i : Instr) : rowOf i ∈ opcodeTable := by
  cases i <;> exact List.elem_iff.mp rfl

theorem exists_rowOf_eq : ∀ r ∈ opcodeTable, ∃ i, rowOf i = r := by simp [opcodeTable]

theorem rowOf_readOperands (w : Word) (i : Instr) : rowOf (i.readOperands w) = rowOf i := by
  cases i <;> rfl

theorem readOperands_readOperands (w : Word) (i : Instr) :
    (i.readOperands w).readOperands w = i.readOperands w := by
  cases i <;> rfl

theorem readOperands_encode (i : Instr) : i.readOperands (encode i) = i := by
  cases i <;> simp [encode, Instr.readOperands]

theorem rowOf_accepts_encode (i : Instr) : (rowOf i).accepts (encode i) = true := by
  cases i with
  | op00E0 | op00EE => rfl
  | op1nnn | op2nnn | opAnnn | opBnnn => exact accepts_of_fieldOp (fieldOp_encodeNNN _ _) rfl rfl
  | op3xkk | op4xkk | op6xkk | op7xkk | opCxkk => exact accepts_of_fieldOp (fieldOp_encodeXKK _ _ _) rfl rfl
  | op5xy0 | op9xy0 | opDxyn => exact accepts_of_fieldOp (fieldOp_encodeXYN _ _ _ _) rfl rfl
  | op8xy0 | op8xy1 | op8xy2 | op8xy3 | op8xy4 | op8xy5 | op8xy6 | op8xy7 | op8xyE =>
    exact accepts_of_fieldOp_fieldSub (fieldOp_encodeXYN _ _ _ _) (fieldSub_encodeXYN _ _ _ _) rfl rfl
  | opEx9E | opExA1 => exact accepts_of_fieldOp_fieldSub (fieldOp_encodeXKK _ _ _) (fieldSub_encodeXKK _ _ _) rfl rfl
  | opFx07 | opFx0A | opFx15 | opFx18 | opFx1E | opFx29 | opFx33 | opFx55 | opFx65 =>
    exact accepts_of_fieldOp_fieldKK (fieldOp_encodeXKK _ _ _) (fieldKK_encodeXKK _ _ _) rfl rfl

/-- Settles O2: the encoded word lies in the row of the instruction, and its fields are the operands. -/
theorem decodeOfEncodeIsTheInstruction : Obligations.DecodeOfEncodeIsTheInstruction :=
  fun i => decode_eq_iff.mpr ⟨rowOf_accepts_encode i, readOperands_encode i⟩

/-! ## Canonical words -/

/-- The canonical words of R55, by the fields of the word. -/
theorem canonical_iff {w : Word} : w.canonical = true ↔
    (fieldOp w = 0x0 → w = 0x00E0 ∨ w = 0x00EE) ∧ (fieldOp w = 0x5 ∨ fieldOp w = 0x9 → fieldSub w = 0x0) ∧
    (fieldOp w = 0xE → fieldKK w = 0x9E ∨ fieldKK w = 0xA1) := by
  simp [Word.canonical, BitVec.toNat_eq, fieldOp_toNat, fieldSub_toNat, fieldKK_toNat, imp_iff_not_or, or_assoc,
    and_assoc]

/-- An instruction read from a word of its row encodes to that word exactly where the bits that the decoder ignores are
those of the printed pattern: bits 11:4 in `00E0` and `00EE`, the low nibble in `5xy0` and `9xy0`, bits 7:4 in `Ex9E`
and `ExA1`, and none elsewhere. -/
theorem encode_eq_iff {w : Word} {i : Instr} (hacc : (rowOf i).accepts w = true) (hi : i.readOperands w = i) :
    encode i = w ↔ w.canonical = true := by
  rw [← hi, canonical_iff]
  cases i with
  | op00E0 =>
    obtain ⟨hop, hsub⟩ := fieldOp_fieldSub_of_accepts hacc
    have hEE : w ≠ 0x00EE#16 := by rintro rfl; exact absurd hsub (by decide)
    simp +decide [encode, Instr.readOperands, hop, hEE, eq_comm (b := w)]
  | op00EE =>
    obtain ⟨hop, hsub⟩ := fieldOp_fieldSub_of_accepts hacc
    have hE0 : w ≠ 0x00E0#16 := by rintro rfl; exact absurd hsub (by decide)
    simp +decide [encode, Instr.readOperands, hop, hE0, eq_comm (b := w)]
  | op1nnn | op2nnn | opAnnn | opBnnn =>
    simp +decide [encode, Instr.readOperands, encodeNNN_eq_iff, fieldOp_of_accepts hacc]
  | op3xkk | op4xkk | op6xkk | op7xkk | opCxkk =>
    simp +decide [encode, Instr.readOperands, encodeXKK_eq_iff, fieldOp_of_accepts hacc]
  | op5xy0 | op9xy0 | opDxyn =>
    simp +decide [encode, Instr.readOperands, encodeXYN_eq_iff, fieldOp_of_accepts hacc, nibble_fieldN]
  | op8xy0 | op8xy1 | op8xy2 | op8xy3 | op8xy4 | op8xy5 | op8xy6 | op8xy7 | op8xyE =>
    obtain ⟨hop, hsub⟩ := fieldOp_fieldSub_of_accepts hacc
    simp +decide [encode, Instr.readOperands, encodeXYN_eq_iff, hop, hsub]
  | opEx9E =>
    obtain ⟨hop, hsub⟩ := fieldOp_fieldSub_of_accepts hacc
    have hA1 : fieldKK w ≠ 0xA1#8 := fun h => absurd hsub (by rw [fieldSub_eq_extractLsb'_fieldKK, h]; decide)
    simp +decide [encode, Instr.readOperands, encodeXKK_eq_iff, hop, hA1]
  | opExA1 =>
    obtain ⟨hop, hsub⟩ := fieldOp_fieldSub_of_accepts hacc
    have h9E : fieldKK w ≠ 0x9E#8 := fun h => absurd hsub (by rw [fieldSub_eq_extractLsb'_fieldKK, h]; decide)
    simp +decide [encode, Instr.readOperands, encodeXKK_eq_iff, hop, h9E]
  | opFx07 | opFx0A | opFx15 | opFx18 | opFx1E | opFx29 | opFx33 | opFx55 | opFx65 =>
    obtain ⟨hop, hlow⟩ := fieldOp_fieldKK_of_accepts hacc
    simp +decide [encode, Instr.readOperands, encodeXKK_eq_iff, hop, hlow]

/-- Settles O3, row by row, by the bits that the decoder ignores. -/
theorem encodeOfDecodeIsTheWordExactlyIfCanonical : Obligations.EncodeOfDecodeIsTheWordExactlyIfCanonical := by
  intro w i h
  obtain ⟨hacc, hi⟩ : IsDecoding w (.ok i) := decode_eq_iff.mp h
  exact encode_eq_iff hacc hi

/-! ## The decode errors, and the opcode map -/

theorem wellFormed_eq_false_iff {w : Word} : w.wellFormed = false ↔ ∃ e, IsDecoding w (.error e) := by
  simp only [Word.wellFormed, Bool.and_eq_false_iff]
  constructor
  · rintro (((h | h) | h) | h)
    exacts [⟨.family0, h⟩, ⟨.family8, h⟩, ⟨.familyE, h⟩, ⟨.familyF, h⟩]
  · rintro ⟨e, h⟩
    cases e <;> simp_all [IsDecoding]

/-- Settles O4: the error clauses of `decode_eq_iff`, and the four sets together. -/
theorem decodeErrorsAreExactlyTheFourSets : Obligations.DecodeErrorsAreExactlyTheFourSets := by
  refine ⟨fun w => ?_, fun w => decode_eq_iff, fun w => decode_eq_iff, fun w => decode_eq_iff, fun w => decode_eq_iff⟩
  simp only [decode_eq_iff, wellFormed_eq_false_iff]

theorem exists_decode_of_accepts {w : Word} {r : OpcodeRow} (hr : r ∈ opcodeTable) (hacc : r.accepts w = true) :
    ∃ i, decode w = .ok i ∧ rowOf i = r := by
  obtain ⟨i, rfl⟩ := exists_rowOf_eq r hr
  refine ⟨i.readOperands w, decode_eq_iff.mpr ⟨?_, readOperands_readOperands w i⟩, rowOf_readOperands w i⟩
  rwa [rowOf_readOperands]

/-- Settles O5: the instruction clause of `decode_eq_iff`; no word has two rows because it decodes to one instruction. -/
theorem dispatchAgreesWithTheOpcodeMap : Obligations.DispatchAgreesWithTheOpcodeMap := by
  refine ⟨fun w i h => ?_, fun w r hr hacc => exists_decode_of_accepts hr hacc, fun w r r' hr hr' hacc hacc' => ?_⟩
  · obtain ⟨hacc, -⟩ : IsDecoding w (.ok i) := decode_eq_iff.mp h
    exact ⟨rowOf_mem_opcodeTable i, hacc⟩
  · obtain ⟨i, hi, rfl⟩ := exists_decode_of_accepts hr hacc
    obtain ⟨i', hi', rfl⟩ := exists_decode_of_accepts hr' hacc'
    rw [Except.ok.inj (hi.symm.trans hi')]

end Sys2Proof

/-! The cycle (spec/40_cycle.md): the fetch, the end of the cycle, every handler's next state, and with them the statements
O6 and O8; then the flag-writing instructions on register 15 as destination, the statement O34. -/

namespace Sys2Proof.Machine

/-! ## The phases around the execute phase -/

section Phases

variable (s : State)

theorem fetch_onlyChanges : OnlyChanges [.opcode, .pc] s (fetch s) :=
  fun f hf => by cases f <;> simp_all [State.same, reg, readByte]

theorem endCycle_onlyChanges : OnlyChanges [.DT, .ST, .inputs, .cycle] s (endCycle s) :=
  fun f hf => by cases f <;> simp_all [State.same, reg, readByte]

end Phases

/-! ## Every handler answers a next state, and leaves the inputs alone -/

section Handlers

variable {s u : State} {i : Instr}

/-- No arm of `exec` faults or is refused (log 19). -/
theorem exists_exec_eq_next (i : Instr) (s : State) : ∃ u, exec i s = .next u := by
  cases i <;> exact ⟨_, rfl⟩

theorem exec_inputs (h : exec i s = .next u) : u.inputs = s.inputs :=
  exec_onlyChanges h .inputs (by cases i <;> simp [Claims.stateWritten])

theorem exec_cycle (h : exec i s = .next u) : u.cycle = s.cycle :=
  exec_onlyChanges h .cycle (by cases i <;> simp [Claims.stateWritten])

/-- The step of a word that is an instruction, through the handler's answer. -/
theorem step_of_exec (hd : decode (Claims.nextWord s) = .ok i) (hu : exec i (fetch s) = .next u) :
    step s = .next (endCycle u) := by
  rw [step_of_decode hd, hu, finish]

end Handlers

/-- Settles O8: a word that is no instruction only reports, and every handler answers a next state. -/
theorem everyStateHasANextState : Obligations.EveryStateHasANextState := by
  intro s
  cases hd : decode (Claims.nextWord s) with
  | error e => exact ⟨_, step_of_decodeError hd⟩
  | ok i =>
    obtain ⟨u, hu⟩ := exists_exec_eq_next i (fetch s)
    exact ⟨endCycle u, step_of_exec hd hu⟩

/-- Settles O6, phase by phase: the fetch, the handler, the end of the cycle. -/
theorem stepRunsTheDecodedInstruction : Obligations.StepRunsTheDecodedInstruction := by
  intro s i hd
  refine ⟨step_of_decode hd, ?_, fetch_opcode s, fetch_pc_toNat s, fetch_onlyChanges s, fun u hu => ?_⟩
  · rw [readByte_mod]
    exact readWord_toNat s s.pc.toNat
  · have hinputs : u.inputs = s.inputs := (exec_inputs hu).trans (fetch_inputs s)
    have hcycle : u.cycle = s.cycle := (exec_cycle hu).trans (fetch_cycle s)
    exact ⟨endCycle u, step_of_exec hd hu, countDown_toNat u.DT, countDown_toNat u.ST, congrArg List.tail hinputs,
      congrArg (· + 1) hcycle, endCycle_onlyChanges u⟩

/-! ## The flag-writing instructions with register 15 as destination (spec/42_load_alu.md R92) -/

/-- The difference modulo 256, without a negative number. -/
theorem byte_sub_toNat (a b : Byte) : (a - b).toNat = (a.toNat + 256 - b.toNat) % 256 := by
  bv_omega

theorem byte_shiftRight_one_toNat (a : Byte) : (a >>> 1).toNat = a.toNat / 2 :=
  (BitVec.toNat_ushiftRight a 1).trans (Nat.shiftRight_eq_div_pow a.toNat 1)

theorem byte_shiftLeft_one_toNat (a : Byte) : (a <<< 1).toNat = 2 * a.toNat % 256 := by
  rw [BitVec.toNat_shiftLeft, Nat.shiftLeft_eq, Nat.mul_comm]

/-- The result is written after the flag, so in register 15 it stays (spec/40_cycle.md R64 (b), the spec's D4). -/
theorem result_replaces_flag_in_VF {s : State} {o : Host.Outcome State Fault Refusal} {flag : Bool} {result : Byte}
    {n : Nat} (ho : o = .next (writeFlagThenResult s flag VF result)) (hn : result.toNat = n) :
    ∃ t, o = .next t ∧ (reg t VF).toNat = n ∧ OnlyChangesRegs [VF] s t ∧ OnlyChanges [.V] s t := by
  refine ⟨_, ho, ?_, fun r hr => ?_, writeFlagThenResult_onlyChanges s flag VF result⟩
  · rw [reg_writeFlagThenResult, if_pos rfl, hn]
  · exact writeFlagThenResult_onlyChangesRegs s flag VF result r (by simpa using hr)

/-- Settles O34: the five handlers write the flag first and the result last, and their results as numbers. -/
theorem flagIsLostWhenTheResultGoesToRegister15 : Obligations.FlagIsLostWhenTheResultGoesToRegister15 := by
  intro s y
  refine ⟨?_, ?_, ?_, ?_, ?_⟩
  · exact result_replaces_flag_in_VF rfl (BitVec.toNat_add (reg s VF) (reg s y))
  · exact result_replaces_flag_in_VF rfl (byte_sub_toNat (reg s VF) (reg s y))
  · exact result_replaces_flag_in_VF rfl (byte_sub_toNat (reg s y) (reg s VF))
  · exact result_replaces_flag_in_VF rfl (byte_shiftRight_one_toNat (reg s VF))
  · exact result_replaces_flag_in_VF rfl (byte_shiftLeft_one_toNat (reg s VF))

end Sys2Proof.Machine

/-! Format NNN, and the jump (spec/41_control_flow.md R71): the statements O20 and O11. -/

namespace Sys2Proof

/-- A row selected by the top nibble alone, with the operand `nnn`, is an encoding in format NNN. -/
theorem encodedNNN_of_isDecoding {n : Nat} {f : Addr → Instr} (hn : n < 16)
    (hrow : ∀ w, fieldOp w = BitVec.ofNat 4 n → IsDecoding w (.ok (f (fieldNNN w)))) : Claims.EncodedNNN n f := by
  intro w hw
  have hop : fieldOp w = BitVec.ofNat 4 n := by
    apply BitVec.eq_of_toNat_eq
    rw [fieldOp_toNat, hw, BitVec.toNat_ofNat, Nat.mod_eq_of_lt hn]
  refine ⟨fieldNNN w, decode_eq_iff.mpr (hrow w hop), ?_⟩
  rw [fieldNNN, BitVec.extractLsb'_toNat, Nat.shiftRight_zero]

theorem encodedNNN_op1nnn : Claims.EncodedNNN 0x1 .op1nnn :=
  encodedNNN_of_isDecoding (by decide) fun _ hop => ⟨accepts_of_fieldOp hop rfl rfl, rfl⟩

end Sys2Proof

namespace Sys2Proof.Machine

/-! ## Frames with fewer pieces, and the next word -/

section NextWord

variable {f : Field} {fs : List Field} {s t : State}

/-- A piece of state that ends as it began need not be named, even where it was written on the way. -/
theorem OnlyChanges.of_same (h : OnlyChanges (f :: fs) s t) (hf : State.same f s t) : OnlyChanges fs s t := by
  intro g hg
  by_cases hgf : g = f
  · exact hgf ▸ hf
  · exact h g (List.not_mem_cons_of_ne_of_not_mem hgf hg)

/-- The next word depends on `pc` and memory alone. -/
theorem OnlyChanges.nextWord (h : OnlyChanges fs s t) (hpc : Field.pc ∉ fs) (hmem : Field.mem ∉ fs) :
    Claims.nextWord t = Claims.nextWord s := by
  have hpc' : t.pc = s.pc := h .pc hpc
  rw [Claims.nextWord, Claims.nextWord, hpc', readWord, readWord, h.readByte hmem, h.readByte hmem]

end NextWord

/-! ## The jump -/

section Jump

variable (s : State) (nnn : Addr)

theorem exec_op1nnn : exec (.op1nnn nnn) s = .next (setPC s nnn.toNat) := rfl

/-- An address field needs no reduction (R71). -/
theorem setPC_addr_toNat : (setPC s nnn.toNat).pc.toNat = nnn.toNat := by
  rw [setPC_toNat, Nat.mod_eq_of_lt nnn.isLt]

/-- A whole cycle of a jump, phase by phase. -/
theorem jumpCycle_onlyChanges :
    OnlyChanges [.pc, .DT, .ST, .opcode, .inputs, .cycle] s (endCycle (setPC (fetch s) nnn.toNat)) :=
  (((fetch_onlyChanges s).mono (by simp)).trans ((setPC_onlyChanges _ _).mono (by simp))).trans
    ((endCycle_onlyChanges _).mono (by simp))

end Jump

/-- Settles O20: the row of the top nibble 1, and the one write of the handler. -/
theorem jumpGoesToItsAddress : Obligations.JumpGoesToItsAddress :=
  ⟨encodedNNN_op1nnn, fun s nnn => ⟨_, exec_op1nnn s nnn, setPC_addr_toNat s nnn, setPC_onlyChanges s _⟩⟩

/-- Settles O11: the jump puts back the `pc` that the fetch advanced, so `pc` leaves the frame of the whole cycle, and with
`pc` and memory the same the next word is the same. -/
theorem jumpToItselfIdles : Obligations.JumpToItselfIdles := by
  intro s nnn _ hd hself
  have hpc : (endCycle (setPC (fetch s) nnn.toNat)).pc = s.pc :=
    BitVec.eq_of_toNat_eq ((setPC_addr_toNat (fetch s) nnn).trans hself)
  have hframe := (jumpCycle_onlyChanges s nnn).of_same hpc
  exact ⟨_, step_of_exec hd (exec_op1nnn (fetch s) nnn), hframe.nextWord (by decide) (by decide), hframe⟩

end Sys2Proof.Machine

/-! The encodings in formats XKK and XYN, and the load, arithmetic, logic and shift instructions (spec/42_load_alu.md): the
statements O29 to O33. -/

namespace Sys2Proof

/-! ## Formats XKK and XYN -/

theorem fieldOp_eq_of_op {w : Word} {n : Nat} (h : w.op = n) : fieldOp w = BitVec.ofNat 4 n := by
  rw [← h, ← fieldOp_toNat, BitVec.ofNat_toNat, BitVec.setWidth_eq]

theorem fieldSub_eq_of_low {w : Word} {n : Nat} (h : w.low = n) : fieldSub w = BitVec.ofNat 4 n := by
  rw [← h, ← fieldSub_toNat, BitVec.ofNat_toNat, BitVec.setWidth_eq]

theorem fieldY_val (w : Word) : (fieldY w).val = w.toNat / 16 % 16 := by
  rw [fieldY, BitVec.val_toFin, BitVec.extractLsb'_toNat, Nat.shiftRight_eq_div_pow]

/-- A row selected by the top nibble alone, with the operands `x` and `kk`, is an encoding in format XKK. -/
theorem encodedXKK_of_isDecoding {n : Nat} {f : Reg → Byte → Instr}
    (hrow : ∀ w, fieldOp w = BitVec.ofNat 4 n → IsDecoding w (.ok (f (fieldX w) (fieldKK w)))) :
    Claims.EncodedXKK n f :=
  fun w hop => ⟨fieldX w, fieldKK w, decode_eq_iff.mpr (hrow w (fieldOp_eq_of_op hop)), fieldX_val w, fieldKK_toNat w⟩

/-- A row selected by the top and the low nibble, with the operands `x` and `y`, is an encoding in format XYN. -/
theorem encodedXYN_of_isDecoding {n low : Nat} {f : Reg → Reg → Instr}
    (hrow : ∀ w, fieldOp w = BitVec.ofNat 4 n → fieldSub w = BitVec.ofNat 4 low →
      IsDecoding w (.ok (f (fieldX w) (fieldY w)))) : Claims.EncodedXYN n low f :=
  fun w hop hlow => ⟨fieldX w, fieldY w,
    decode_eq_iff.mpr (hrow w (fieldOp_eq_of_op hop) (fieldSub_eq_of_low hlow)), fieldX_val w, fieldY_val w⟩

theorem encodedXKK_op6xkk : Claims.EncodedXKK 0x6 .op6xkk :=
  encodedXKK_of_isDecoding fun _ hop => ⟨accepts_of_fieldOp hop rfl rfl, rfl⟩

theorem encodedXKK_op7xkk : Claims.EncodedXKK 0x7 .op7xkk :=
  encodedXKK_of_isDecoding fun _ hop => ⟨accepts_of_fieldOp hop rfl rfl, rfl⟩

theorem encodedXYN_op8xy0 : Claims.EncodedXYN 0x8 0x0 .op8xy0 :=
  encodedXYN_of_isDecoding fun _ hop hsub => ⟨accepts_of_fieldOp_fieldSub hop hsub rfl rfl, rfl⟩

theorem encodedXYN_op8xy1 : Claims.EncodedXYN 0x8 0x1 .op8xy1 :=
  encodedXYN_of_isDecoding fun _ hop hsub => ⟨accepts_of_fieldOp_fieldSub hop hsub rfl rfl, rfl⟩

theorem encodedXYN_op8xy2 : Claims.EncodedXYN 0x8 0x2 .op8xy2 :=
  encodedXYN_of_isDecoding fun _ hop hsub => ⟨accepts_of_fieldOp_fieldSub hop hsub rfl rfl, rfl⟩

theorem encodedXYN_op8xy3 : Claims.EncodedXYN 0x8 0x3 .op8xy3 :=
  encodedXYN_of_isDecoding fun _ hop hsub => ⟨accepts_of_fieldOp_fieldSub hop hsub rfl rfl, rfl⟩

theorem encodedXYN_op8xy4 : Claims.EncodedXYN 0x8 0x4 .op8xy4 :=
  encodedXYN_of_isDecoding fun _ hop hsub => ⟨accepts_of_fieldOp_fieldSub hop hsub rfl rfl, rfl⟩

theorem encodedXYN_op8xy5 : Claims.EncodedXYN 0x8 0x5 .op8xy5 :=
  encodedXYN_of_isDecoding fun _ hop hsub => ⟨accepts_of_fieldOp_fieldSub hop hsub rfl rfl, rfl⟩

theorem encodedXYN_op8xy6 : Claims.EncodedXYN 0x8 0x6 .op8xy6 :=
  encodedXYN_of_isDecoding fun _ hop hsub => ⟨accepts_of_fieldOp_fieldSub hop hsub rfl rfl, rfl⟩

theorem encodedXYN_op8xy7 : Claims.EncodedXYN 0x8 0x7 .op8xy7 :=
  encodedXYN_of_isDecoding fun _ hop hsub => ⟨accepts_of_fieldOp_fieldSub hop hsub rfl rfl, rfl⟩

theorem encodedXYN_op8xyE : Claims.EncodedXYN 0x8 0xE .op8xyE :=
  encodedXYN_of_isDecoding fun _ hop hsub => ⟨accepts_of_fieldOp_fieldSub hop hsub rfl rfl, rfl⟩

end Sys2Proof

namespace Sys2Proof.Machine

/-! ## The instructions that write one register and no flag -/

theorem reg_setReg_self (s : State) (x : Reg) (v : Byte) : reg (setReg s x v) x = v := by
  rw [reg_setReg, if_pos rfl]

/-- Settles O29: the rows of `6xkk`, `7xkk` and `8xy0`, and the one write of each handler. -/
theorem loadsAndAddImmediateWriteOneRegister : Obligations.LoadsAndAddImmediateWriteOneRegister := by
  refine ⟨encodedXKK_op6xkk, encodedXKK_op7xkk, encodedXYN_op8xy0, fun s x y kk => ⟨?_, ?_, ?_⟩⟩
  · exact ⟨_, rfl, reg_setReg_self s x kk, setReg_onlyChangesRegs s x _, setReg_onlyChanges s x _⟩
  · refine ⟨_, rfl, ?_, setReg_onlyChangesRegs s x _, setReg_onlyChanges s x _⟩
    rw [reg_setReg_self, BitVec.toNat_add]
  · exact ⟨_, rfl, reg_setReg_self s x (reg s y), setReg_onlyChangesRegs s x _, setReg_onlyChanges s x _⟩

/-- Settles O30: each handler is one write, and the operation on bytes acts on each bit by itself. -/
theorem logicWorksOnAllBitsAndSetsNoFlag : Obligations.LogicWorksOnAllBitsAndSetsNoFlag := by
  refine ⟨encodedXYN_op8xy1, encodedXYN_op8xy2, encodedXYN_op8xy3, fun s x y => ⟨?_, ?_, ?_⟩⟩
  · refine ⟨_, rfl, setReg_onlyChangesRegs s x _, setReg_onlyChanges s x _, fun j => ?_⟩
    rw [reg_setReg_self, BitVec.toNat_or, Nat.testBit_or]
  · refine ⟨_, rfl, setReg_onlyChangesRegs s x _, setReg_onlyChanges s x _, fun j => ?_⟩
    rw [reg_setReg_self, BitVec.toNat_and, Nat.testBit_and]
  · refine ⟨_, rfl, setReg_onlyChangesRegs s x _, setReg_onlyChanges s x _, fun j => ?_⟩
    rw [reg_setReg_self, BitVec.toNat_xor, Nat.testBit_xor]

/-! ## The flags as numbers (spec/42_load_alu.md R91) -/

section Flags

variable (a b : Byte)

theorem flagByte_toNat (flag : Bool) : (if flag then 1 else 0 : Byte).toNat = flag.toNat := by
  cases flag <;> rfl

theorem carry_toNat : (carry a b).toNat = if a.toNat + b.toNat > 255 then 1 else 0 := Bool.cond_decide _ 1 0

theorem greater_toNat : (greater a b).toNat = if a.toNat > b.toNat then 1 else 0 := Bool.cond_decide _ 1 0

theorem bit0_toNat : (bit0 a).toNat = a.toNat % 2 := by
  rw [bit0, BitVec.getLsbD, Nat.toNat_testBit, pow_zero, Nat.div_one]

/-- Bit 7 is the whole quotient, because a byte lies below 256. -/
theorem bit7_toNat : (bit7 a).toNat = a.toNat / 128 := by
  have hlt : a.toNat / 128 < 2 := by omega
  rw [bit7, BitVec.getLsbD, Nat.toNat_testBit]
  exact Nat.mod_eq_of_lt hlt

end Flags

/-! ## The flag-writing instructions with another register than 15 as destination -/

/-- Where the result does not go to register 15, both writes stay. -/
theorem result_and_flag_written {s : State} {o : Host.Outcome State Fault Refusal} {flag : Bool} {x : Reg}
    {result : Byte} {n m : Nat} (ho : o = .next (writeFlagThenResult s flag x result)) (hx : x ≠ VF)
    (hn : result.toNat = n) (hm : flag.toNat = m) :
    ∃ t, o = .next t ∧ (reg t x).toNat = n ∧ (reg t VF).toNat = m ∧
      OnlyChangesRegs [x, VF] s t ∧ OnlyChanges [.V] s t := by
  refine ⟨_, ho, ?_, ?_, writeFlagThenResult_onlyChangesRegs s flag x result,
    writeFlagThenResult_onlyChanges s flag x result⟩
  · rw [reg_writeFlagThenResult, if_pos rfl, hn]
  · rw [reg_writeFlagThenResult, if_neg hx.symm, if_pos rfl, flagByte_toNat, hm]

/-- Settles O31: the sum and the carry, both of the values from before the two writes. -/
theorem addSetsTheCarryFlag : Obligations.AddSetsTheCarryFlag :=
  ⟨encodedXYN_op8xy4, fun s x y hx =>
    result_and_flag_written rfl hx (BitVec.toNat_add (reg s x) (reg s y)) (carry_toNat (reg s x) (reg s y))⟩

/-- Settles O32: the difference and the comparison, of `V[x]` and `V[y]` in the one order and in the other. -/
theorem subtractsSetTheFlagIfStrictlyGreater : Obligations.SubtractsSetTheFlagIfStrictlyGreater := by
  refine ⟨encodedXYN_op8xy5, encodedXYN_op8xy7, fun s x y hx _ => ⟨?_, ?_⟩⟩
  · exact result_and_flag_written rfl hx (byte_sub_toNat (reg s x) (reg s y)) (greater_toNat (reg s x) (reg s y))
  · exact result_and_flag_written rfl hx (byte_sub_toNat (reg s y) (reg s x)) (greater_toNat (reg s y) (reg s x))

/-- Settles O33: the shifted value and the bit shifted out, both of the old `V[x]`. -/
theorem shiftsTakeTheFlagFromTheOldValue : Obligations.ShiftsTakeTheFlagFromTheOldValue := by
  refine ⟨encodedXYN_op8xy6, encodedXYN_op8xyE, fun s x y hx => ⟨?_, ?_⟩⟩
  · exact result_and_flag_written rfl hx (byte_shiftRight_one_toNat (reg s x)) (bit0_toNat (reg s x))
  · exact result_and_flag_written rfl hx (byte_shiftLeft_one_toNat (reg s x)) (bit7_toNat (reg s x))

end Sys2Proof.Machine

/-! The index register (spec/43_index_memory.md R95 and R97): the statement O37. -/

namespace Sys2Proof

theorem encodedNNN_opAnnn : Claims.EncodedNNN 0xA .opAnnn :=
  encodedNNN_of_isDecoding (by decide) fun _ hop => ⟨accepts_of_fieldOp hop rfl rfl, rfl⟩

theorem encodedXS_opFx29 : Claims.EncodedXS 0x29 .opFx29 :=
  encodedXS_of_decodeFamilyF (by decide) fun w h => by simp [decodeFamilyF, h]

end Sys2Proof

namespace Sys2Proof.Machine

/-- The glyph address of every byte lies inside memory: at most `0x050 + 5 * 255 = 0x54B` (R97). -/
theorem glyphAddress_lt (v : Byte) : glyphAddress v < 4096 := by
  have hv := v.isLt
  rw [glyphAddress]
  omega

/-- An index below 4096 needs no reduction. -/
theorem setI_toNat_of_lt (s : State) {a : Nat} (ha : a < 4096) : (setI s a).I.toNat = a := by
  rw [setI_toNat, Nat.mod_eq_of_lt ha]

/-- Settles O37: the two rows, and the one write of each handler, of an address that needs no reduction. -/
theorem indexLoadsSetTheIndexRegister : Obligations.IndexLoadsSetTheIndexRegister := by
  refine ⟨encodedNNN_opAnnn, encodedXS_opFx29, fun s x nnn => ⟨?_, ?_⟩⟩
  · exact ⟨_, rfl, setI_toNat_of_lt s nnn.isLt, setI_onlyChanges s _⟩
  · exact ⟨_, rfl, setI_toNat_of_lt s (glyphAddress_lt (reg s x)), setI_onlyChanges s _⟩

end Sys2Proof.Machine

/-! The display (spec/44_display.md). A draw is told as a set of cells: the loop's single pixels are put together to the
sprite, and every part of it inverts the cells it covers and collides where one of them is lit (`Canvas.Inverts`). With it
the statements O43, O44 and O45. -/

namespace Sys2Proof

theorem decode_op00E0 {w : Word} (hop : w.op = 0) (hlow : w.low = 0) : decode w = .ok .op00E0 :=
  decode_eq_iff.mpr ⟨accepts_of_fieldOp_fieldSub (fieldOp_eq_of_op hop) (fieldSub_eq_of_low hlow) rfl rfl, rfl⟩

theorem fieldN_val (w : Word) : (fieldN w).val = w.toNat % 16 := fieldSub_toNat w

theorem encodedDraw : Claims.EncodedDraw :=
  fun w hop => ⟨fieldX w, fieldY w, fieldN w,
    decode_eq_iff.mpr ⟨accepts_of_fieldOp (fieldOp_eq_of_op hop) rfl rfl, rfl⟩, fieldX_val w, fieldY_val w, fieldN_val w⟩

end Sys2Proof

namespace Sys2Proof.Machine

/-! ## Clearing the screen -/

theorem clearDisplay_cell (r : Fin 32) (k : Fin 64) : clearDisplay[r][k] = false := by
  simp [clearDisplay]

/-- Settles O43: the row of `00E0`, and the one write of its handler. -/
theorem clearScreenTurnsEveryCellOff : Obligations.ClearScreenTurnsEveryCellOff :=
  ⟨fun _ => decode_op00E0, fun s => ⟨_, rfl, clearDisplay_cell, setDisplay_onlyChanges s clearDisplay⟩⟩

/-! ## Inverting a set of cells -/

/-- A set of cells of the display. -/
abbrev CellSet := Fin 32 → Fin 64 → Prop

/-- From canvas `c` to `c'` exactly the cells of `P` were inverted, and a collision was recorded where one of them was lit
(R106, R107). -/
structure Canvas.Inverts (P : CellSet) (c c' : Canvas) : Prop where
  cell_iff : ∀ (r : Fin 32) (k : Fin 64), c'.display[r][k] = true ↔ (c.display[r][k] = true ↔ ¬ P r k)
  collision_iff : c'.collision = true ↔
    c.collision = true ∨ ∃ (r : Fin 32) (k : Fin 64), c.display[r][k] = true ∧ P r k

section Inverts

variable {P Q R : CellSet} {c c' c'' : Canvas}

theorem Canvas.Inverts.refl (hP : ∀ r k, ¬ P r k) : c.Inverts P c where
  cell_iff r k := by simp [hP r k]
  collision_iff := by simp [hP]

/-- Two draws that share no cell are one draw of both sets: the second sees its cells as the first found them. -/
theorem Canvas.Inverts.trans (h : c.Inverts P c') (h' : c'.Inverts Q c'') (hdisj : ∀ r k, P r k → ¬ Q r k)
    (hR : ∀ r k, R r k ↔ P r k ∨ Q r k) : c.Inverts R c'' where
  cell_iff r k := by
    rw [h'.cell_iff, h.cell_iff, hR]
    by_cases hP : P r k
    · simp [hP, hdisj r k hP]
    · simp [hP]
  collision_iff := by
    have hseen : ∀ r k, (c'.display[r][k] = true ∧ Q r k) ↔ (c.display[r][k] = true ∧ Q r k) := fun r k =>
      and_congr_left fun hQ => by
        have hP : ¬ P r k := fun hP => hdisj r k hP hQ
        simp only [h.cell_iff, hP, not_false_eq_true, iff_true]
    simp only [h'.collision_iff, h.collision_iff, hseen, hR, and_or_left, exists_or, or_assoc]

end Inverts

/-! ## The loop of the source, from the single pixel to the sprite -/

/-- The cell that `display[row mod 32][col mod 64]` names. -/
def cellAt (row col : Nat) : CellSet := fun r k => r.val = row % 32 ∧ k.val = col % 64

/-- The cells of the set bits among the first `n` bit columns of the sprite row `b`. -/
def rowCells (b : Byte) (row col n : Nat) : CellSet :=
  fun r k => ∃ j, j < n ∧ spriteBit b j = true ∧ cellAt row (col + j) r k

/-- The cells of `s(r, c)` of R106. -/
def spriteCells (s : State) (vx vy n : Nat) : CellSet := fun r k => Claims.SpriteCovers s vx vy n r.val k.val

theorem cell_of_cellAt {row col : Nat} {r : Fin 32} {k : Fin 64} (d : Display) (h : cellAt row col r k) :
    cell d row col = d[r][k] := by
  obtain ⟨hr, hk⟩ := h
  simp [cell, hr, hk]

theorem setCell_of_cellAt {row col : Nat} {r : Fin 32} {k : Fin 64} (d : Display) (on : Bool)
    (h : cellAt row col r k) : (setCell d row col on)[r][k] = on := by
  obtain ⟨hr, hk⟩ := h
  simp [setCell, hr, hk]

theorem setCell_of_not_cellAt {row col : Nat} {r : Fin 32} {k : Fin 64} (d : Display) (on : Bool)
    (h : ¬ cellAt row col r k) : (setCell d row col on)[r][k] = d[r][k] := by
  by_cases hr : row % 32 = r.val
  · have hk : col % 64 ≠ k.val := fun hk => h ⟨hr.symm, hk.symm⟩
    simp [setCell, hr, Vector.getElem_set_ne, hk]
  · simp [setCell, Vector.getElem_set_ne, hr]

theorem exists_cellAt (row col : Nat) : ∃ r k, cellAt row col r k :=
  ⟨⟨row % 32, Nat.mod_lt _ (by decide)⟩, ⟨col % 64, Nat.mod_lt _ (by decide)⟩, rfl, rfl⟩

theorem xorCell_display (c : Canvas) (row col : Nat) :
    (xorCell c row col).display = setCell c.display row col (!cell c.display row col) := by
  unfold xorCell
  split <;> simp [*]

theorem xorCell_collision (c : Canvas) (row col : Nat) :
    (xorCell c row col).collision = (c.collision || cell c.display row col) := by
  unfold xorCell
  split <;> simp [*]

theorem xorCell_inverts (c : Canvas) (row col : Nat) : c.Inverts (cellAt row col) (xorCell c row col) where
  cell_iff r k := by
    rw [xorCell_display]
    by_cases h : cellAt row col r k
    · rw [setCell_of_cellAt _ _ h, cell_of_cellAt _ h]
      simp [h]
    · rw [setCell_of_not_cellAt _ _ h]
      simp [h]
  collision_iff := by
    rw [xorCell_collision, Bool.or_eq_true]
    refine or_congr_right ⟨fun hlit => ?_, fun ⟨r, k, hlit, h⟩ => by rwa [cell_of_cellAt _ h]⟩
    obtain ⟨r, k, h⟩ := exists_cellAt row col
    exact ⟨r, k, by rwa [← cell_of_cellAt _ h], h⟩

/-- One more bit column. -/
theorem rowCells_succ {b : Byte} {row col n : Nat} {r : Fin 32} {k : Fin 64} :
    rowCells b row col (n + 1) r k ↔
      rowCells b row col n r k ∨ (spriteBit b n = true ∧ cellAt row (col + n) r k) :=
  Nat.exists_lt_succ_right

/-- Up to 64 columns lie on cells of their own, so that each is drawn on what stood there before the row. -/
theorem drawRow_inverts (b : Byte) (row col : Nat) (c : Canvas) {n : Nat} (hn : n ≤ 64) :
    c.Inverts (rowCells b row col n) (drawRow b row col c n) := by
  induction n with
  | zero => exact .refl fun _ _ ⟨_, hj, _⟩ => absurd hj (Nat.not_lt_zero _)
  | succ n ih =>
    have ih := ih (by omega)
    rw [drawRow]
    split
    next hbit =>
      refine ih.trans (xorCell_inverts _ row (col + n)) ?_ fun r k => by simp [rowCells_succ, hbit]
      rintro r k ⟨j, hj, -, -, hk⟩ ⟨-, hk'⟩
      omega
    next hbit =>
      have hsame : rowCells b row col (n + 1) = rowCells b row col n := by
        funext r k
        simp [rowCells_succ, hbit]
      rwa [hsame]

theorem spriteBit_readByte (s : State) (i j : Nat) :
    spriteBit (readByte s (effectiveAddress s i)) j = Claims.spriteHas s i j := rfl

/-- One more sprite row. -/
theorem spriteCells_succ {s : State} {vx vy n : Nat} {r : Fin 32} {k : Fin 64} :
    spriteCells s vx vy (n + 1) r k ↔
      spriteCells s vx vy n r k ∨ rowCells (readByte s (effectiveAddress s n)) (vy + n) vx 8 r k := by
  simp only [spriteCells, Claims.SpriteCovers, rowCells, cellAt, spriteBit_readByte]
  constructor
  · rintro ⟨i, j, hi, hj, hr, hk, hbit⟩
    obtain hi | rfl := Nat.lt_succ_iff_lt_or_eq.mp hi
    · exact .inl ⟨i, j, hi, hj, hr, hk, hbit⟩
    · exact .inr ⟨j, hj, hbit, hr, hk⟩
  · rintro (⟨i, j, hi, hj, hr, hk, hbit⟩ | ⟨j, hj, hbit, hr, hk⟩)
    · exact ⟨i, j, Nat.lt_succ_of_lt hi, hj, hr, hk, hbit⟩
    · exact ⟨n, j, Nat.lt_succ_self n, hj, hr, hk, hbit⟩

/-- Up to 32 sprite rows lie on display rows of their own. -/
theorem drawSprite_inverts (s : State) (vx vy : Nat) (c : Canvas) {n : Nat} (hn : n ≤ 32) :
    c.Inverts (spriteCells s vx vy n) (drawSprite s vx vy c n) := by
  induction n with
  | zero => exact .refl fun _ _ ⟨_, _, hi, _⟩ => absurd hi (Nat.not_lt_zero _)
  | succ n ih =>
    refine (ih (by omega)).trans (drawRow_inverts _ (vy + n) vx _ (by decide)) ?_ fun _ _ => spriteCells_succ
    rintro r k ⟨i, _, hi, -, hr, -, -⟩ ⟨_, -, -, hr', -⟩
    omega

/-! ## The draw -/

/-- The collision flag as the number in register 15. -/
theorem setFlag_VF_toNat (s : State) (flag : Bool) : (reg (setFlag s flag) VF).toNat = flag.toNat := by
  rw [reg_setFlag, if_pos rfl, flagByte_toNat]

/-- Settles O44: the loop of at most 15 rows inverts the cells of the sprite, from a canvas without a collision. -/
theorem drawIsTheClosedForm : Obligations.DrawIsTheClosedForm := by
  refine ⟨encodedDraw, fun s x y n => ⟨_, rfl, ?_⟩⟩
  have hdraw := drawSprite_inverts s (reg s x).toNat (reg s y).toNat ⟨s.display, false⟩
    (show n.val ≤ 32 by omega)
  refine ⟨hdraw.cell_iff, ?_, ?_, execDxyn_onlyChangesRegs rfl, execDxyn_onlyChanges rfl⟩
  · rw [setFlag_VF_toNat, Bool.toNat_eq_one, hdraw.collision_iff]
    simp [spriteCells]
  · rw [setFlag_VF_toNat]
    exact Bool.toNat_le _

/-! ## The same draw again -/

/-- Where `I` and memory stay, the sprite does. -/
theorem OnlyChanges.spriteCovers_iff {fs : List Field} {s t : State} (h : OnlyChanges fs s t) (hI : Field.I ∉ fs)
    (hmem : Field.mem ∉ fs) (vx vy n r c : Nat) :
    Claims.SpriteCovers t vx vy n r c ↔ Claims.SpriteCovers s vx vy n r c := by
  have hI' : t.I = s.I := h .I hI
  simp only [Claims.SpriteCovers, Claims.spriteHas, hI', h.readByte hmem]

/-- A set sprite bit covers some cell of the display, wherever the sprite is drawn. -/
theorem exists_spriteCovers_iff (s : State) (vx vy n : Nat) :
    (∃ (r : Fin 32) (c : Fin 64), Claims.SpriteCovers s vx vy n r.val c.val) ↔
      ∃ i j, i < n ∧ j < 8 ∧ Claims.spriteHas s i j = true := by
  constructor
  · rintro ⟨-, -, i, j, hi, hj, -, -, hbit⟩
    exact ⟨i, j, hi, hj, hbit⟩
  · rintro ⟨i, j, hi, hj, hbit⟩
    obtain ⟨r, c, hr, hc⟩ := exists_cellAt (vy + i) (vx + j)
    exact ⟨r, c, i, j, hi, hj, hr, hc, hbit⟩

theorem display_ext {d d' : Display} (h : ∀ (r : Fin 32) (k : Fin 64), d[r][k] = true ↔ d'[r][k] = true) : d = d' :=
  Vector.ext fun r hr => Vector.ext fun k hk => Bool.eq_iff_iff.mpr (h ⟨r, hr⟩ ⟨k, hk⟩)

/-- Settles O45: by the closed form of both draws, whose coordinates and sprite are the same. -/
theorem drawingTwiceErases : Obligations.DrawingTwiceErases := by
  intro s t x y n hx hy hexec
  obtain ⟨-, hdraw⟩ := drawIsTheClosedForm
  obtain ⟨t', hexec', hcell, hVF, hle, hregs, hframe⟩ := hdraw s x y n
  obtain rfl : t' = t := Host.Outcome.next.inj (hexec'.symm.trans hexec)
  obtain ⟨u, hexecU, hcellU, hVFU, -⟩ := hdraw t' x y n
  have hregX : reg t' x = reg s x := hregs x (by simpa using hx)
  have hregY : reg t' y = reg s y := hregs y (by simpa using hy)
  simp only [hregX, hregY, hframe.spriteCovers_iff (by decide) (by decide), hcell] at hcellU hVFU
  refine ⟨u, hexecU, display_ext fun r k => ?_, fun hdark => ⟨?_, ?_⟩⟩
  · simp only [hcellU, iff_assoc, iff_true]
  · have hne : (reg t' VF).toNat ≠ 1 := fun h => by
      obtain ⟨r, k, hlit, -⟩ := hVF.mp h
      exact Bool.false_ne_true ((hdark r k).symm.trans hlit)
    omega
  · rw [hVFU, ← exists_spriteCovers_iff s (reg s x).toNat (reg s y).toNat n.val]
    refine exists₂_congr fun r k => ?_
    rw [hdark]
    simp

end Sys2Proof.Machine

/-! The call stack (spec/41_control_flow.md R70 and R72): what a call and a return are where the stack lets them be
performed, and with it the statements O22 and O26. -/

namespace Sys2Proof

theorem encodedNNN_op2nnn : Claims.EncodedNNN 0x2 .op2nnn :=
  encodedNNN_of_isDecoding (by decide) fun _ hop => ⟨accepts_of_fieldOp hop rfl rfl, rfl⟩

end Sys2Proof

namespace Sys2Proof.Machine

section CallStack

variable {s s1 : State}

/-- What a push onto a free slot leaves in the stack and in `sp`. -/
theorem exists_push_of_lt (a : Word) (h : s.sp.val < 16) : ∃ s1, push s a = some s1 ∧ s1.stack[s.sp.val] = a ∧
    (∀ k : Fin 16, k.val ≠ s.sp.val → s1.stack[k] = s.stack[k]) ∧ s1.sp.val = s.sp.val + 1 :=
  ⟨_, push_of_lt a h, Vector.getElem_set_self h, fun k hk => Vector.getElem_set_ne h k.isLt hk.symm, rfl⟩

/-- A pop where the count of entries is known as a successor: it gives the slot of that number. -/
theorem pop_of_sp_eq_succ {n : Nat} (hn : n < 16) (h : s.sp.val = n + 1) :
    pop s = some (s.stack[n], { s with sp := ⟨n, by omega⟩ }) := by
  rw [pop_of_pos (by omega)]
  simp only [h, Nat.add_sub_cancel]

/-- A call that is performed. -/
theorem exec_op2nnn_of_push (nnn : Addr) (h : push s s.pc = some s1) :
    exec (.op2nnn nnn) s = .next (setPC s1 nnn.toNat) := by
  rw [exec, exec2nnn, h]

/-- A return that is performed. -/
theorem exec_op00EE_of_pop {a : Word} (h : pop s = some (a, s1)) : exec .op00EE s = .next (setPC s1 a.toNat) := by
  rw [exec, exec00EE, h]

/-- Writing back a `pc` that is an address restores it. -/
theorem setPC_pc_of_lt {a : Word} (ha : a.toNat < 4096) : (setPC s a.toNat).pc = a :=
  BitVec.eq_of_toNat_eq ((setPC_toNat s a.toNat).trans (Nat.mod_eq_of_lt ha))

end CallStack

/-- Settles O22: the push onto the free slot, then the write of `pc`, each with its frame. -/
theorem callSavesTheReturnAddress : Obligations.CallSavesTheReturnAddress := by
  refine ⟨encodedNNN_op2nnn, fun s nnn h => ?_⟩
  obtain ⟨s1, hpush, hslot, hothers, hsp⟩ := exists_push_of_lt s.pc h
  have hframe : OnlyChanges [.stack, .sp, .pc] s (setPC s1 nnn.toNat) :=
    ((push_onlyChanges hpush).mono (by simp)).trans ((setPC_onlyChanges s1 _).mono (by simp))
  exact ⟨_, exec_op2nnn_of_push nnn hpush, hslot, hothers, hsp, setPC_addr_toNat s1 nnn, hframe⟩

/-- Settles O26: the slot that the return takes is the one that the call filled with its post-fetch `pc`. -/
theorem returnComesBackToAfterTheCall : Obligations.ReturnComesBackToAfterTheCall := by
  intro s t u nnn hpc hfree hcall hstack hsp
  obtain ⟨-, hcalls⟩ := callSavesTheReturnAddress
  obtain ⟨t', hcall', hslot, -, hcount, -⟩ := hcalls s nnn hfree
  obtain rfl : t' = t := Host.Outcome.next.inj (hcall'.symm.trans hcall)
  have hslot' : u.stack[s.sp.val] = s.pc := hstack ▸ hslot
  have hpop := pop_of_sp_eq_succ hfree ((congrArg Fin.val hsp).trans hcount)
  rw [hslot'] at hpop
  exact ⟨_, exec_op00EE_of_pop hpop, setPC_pc_of_lt hpc, rfl, hstack, rfl⟩

end Sys2Proof.Machine

/-! Reset and boot (spec/70_reset_and_hazards.md R141 to R144): bytes placed in a row from an address, and with it the
statement O50. -/

namespace Sys2Proof.Machine

/-! ## Bytes placed in a row -/

section LoadBytes

variable {s : State} {a b : Nat} {bs : List Byte}

theorem loadBytes_onlyChanges (s : State) (a : Nat) (bs : List Byte) : OnlyChanges [.mem] s (loadBytes s a bs) := by
  induction bs generalizing s a with
  | nil => exact .refl _ s
  | cons v bs ih => exact (writeByte_onlyChanges s a v).trans (ih _ _)

theorem loadBytes_wf (h : s.mem.wf = true) (a : Nat) (bs : List Byte) : (loadBytes s a bs).mem.wf = true := by
  induction bs generalizing s a with
  | nil => exact h
  | cons v bs ih => exact ih (writeByte_wf h a v) _

/-- Bytes that end inside memory leave every address below and above them alone. -/
theorem readByte_loadBytes_of_outside (hfit : a + bs.length ≤ 4096) (hb : b < 4096)
    (hout : ¬ (a ≤ b ∧ b < a + bs.length)) : readByte (loadBytes s a bs) b = readByte s b := by
  induction bs generalizing s a with
  | nil => rfl
  | cons v bs ih =>
    rw [List.length_cons] at hfit hout
    rw [loadBytes, ih (by omega) (by omega), readByte_writeByte_of_ne s a v (by omega)]

/-- Bytes that end inside memory read back verbatim. -/
theorem readByte_loadBytes (hwf : s.mem.wf = true) (hfit : a + bs.length ≤ 4096) {k : Nat} (hk : k < bs.length) :
    readByte (loadBytes s a bs) (a + k) = bs[k] := by
  induction bs generalizing s a k with
  | nil => cases hk
  | cons v bs ih =>
    rw [List.length_cons] at hfit hk
    cases k with
    | zero =>
      rw [loadBytes, readByte_loadBytes_of_outside (by omega) (by omega) (by omega), readByte_writeByte hwf]
      exact if_pos rfl
    | succ k =>
      rw [loadBytes, ← Nat.add_assoc, Nat.add_right_comm, ih (writeByte_wf hwf a v) (by omega) (by omega)]
      rfl

end LoadBytes

/-! ## Reset -/

/-- An operation on memory alone keeps the invariant where it keeps the canonical form. -/
theorem OnlyChanges.inv_of_wf {s t : State} (h : OnlyChanges [.mem] s t) (hs : s.Inv) (hwf : t.mem.wf = true) :
    t.Inv := by
  obtain ⟨hpc, hI, hstack, -⟩ := hs
  have hpc' : t.pc = s.pc := h .pc (by decide)
  have hI' : t.I = s.I := h .I (by decide)
  have hstack' : t.stack = s.stack := h .stack (by decide)
  exact ⟨hpc' ▸ hpc, hI' ▸ hI, hstack' ▸ hstack, hwf⟩

theorem reset_inv : State.reset.Inv :=
  ⟨by decide, by decide, fun k => by simp [State.reset], State.reset_mem_wf⟩

/-- Outside the font reset memory reads 0 (the spec's D12, log 6). -/
theorem readByte_reset_of_not_font {a : Nat} (ha : a < 4096) (hfont : ¬ (0x050 ≤ a ∧ a ≤ 0x09F)) :
    readByte State.reset a = 0 := by
  rw [readByte, A12_of_lt ha]
  exact if_neg hfont

/-! ## Boot -/

section Boot

variable (font : Vector Byte 80) (rom : List Byte)

theorem boot_of_le (h : rom.length ≤ 3584) :
    State.boot font rom = some (loadBytes (State.reset.loadFont font) 0x200 rom) := if_pos h

theorem boot_of_lt (h : 3584 < rom.length) : State.boot font rom = none := if_neg (by omega)

theorem loadFont_wf : (State.reset.loadFont font).mem.wf = true := loadBytes_wf State.reset_mem_wf _ _

theorem readByte_loadFont (k : Fin 80) : readByte (State.reset.loadFont font) (0x050 + k.val) = font[k] := by
  have hlen : font.toList.length = 80 := font.length_toList
  have hk := k.isLt
  rw [State.loadFont, readByte_loadBytes State.reset_mem_wf (by omega) (by omega)]
  exact Vector.getElem_toList _

theorem readByte_loadFont_of_not_font {a : Nat} (ha : a < 4096) (hfont : ¬ (0x050 ≤ a ∧ a ≤ 0x09F)) :
    readByte (State.reset.loadFont font) a = 0 := by
  have hlen : font.toList.length = 80 := font.length_toList
  rw [State.loadFont, readByte_loadBytes_of_outside (by omega) ha (by omega), readByte_reset_of_not_font ha hfont]

end Boot

/-- Settles O50: the image leaves the font alone, and each of the two reads back where it was placed. -/
theorem bootPlacesFontAndImage : Obligations.BootPlacesFontAndImage := by
  refine fun font rom => ⟨boot_of_lt font rom, fun hle => ?_⟩
  have hfit : 0x200 + rom.length ≤ 4096 := by omega
  have hframe : OnlyChanges [.mem] State.reset (loadBytes (State.reset.loadFont font) 0x200 rom) :=
    (loadBytes_onlyChanges State.reset _ _).trans (loadBytes_onlyChanges _ _ _)
  refine ⟨_, boot_of_le font rom hle, hframe, hframe.inv_of_wf reset_inv (loadBytes_wf (loadFont_wf font) _ _),
    fun k => ?_, fun k hk => ?_, fun a ha hfont himage => ?_⟩
  · have hk := k.isLt
    rw [readByte_loadBytes_of_outside hfit (by omega) (by omega), readByte_loadFont]
  · exact readByte_loadBytes (loadFont_wf font) hfit hk
  · rw [readByte_loadBytes_of_outside hfit ha himage, readByte_loadFont_of_not_font font ha hfont]

end Sys2Proof.Machine

/-! What every step keeps and what no step reads (spec/10_state.md sections 7 and 8): the state invariant, operation by
operation and handler by handler, and reset; then the one rule of how a step commutes with other error bits and other
scheduled inputs. With them the statements O12, O13, O15, O14, O16 and O17. -/

namespace Sys2Proof

theorem decode_op00EE {w : Word} (hop : w.op = 0) (hlow : w.low = 0xE) : decode w = .ok .op00EE :=
  decode_eq_iff.mpr ⟨accepts_of_fieldOp_fieldSub (fieldOp_eq_of_op hop) (fieldSub_eq_of_low hlow) rfl rfl, rfl⟩

end Sys2Proof

namespace Sys2Proof.Machine

/-! ## The invariant, operation by operation

Operations on other pieces of state than `pc`, `I`, the stack and memory keep it as it stands. -/

section Invariant

variable {s t : State}

theorem toNat_ofNat_A12_lt (a : Nat) : (BitVec.ofNat 16 (A12 a)).toNat < 4096 :=
  (toNat_ofNat_A12 a).trans_lt (Nat.mod_lt a (by decide))

theorem setPC_inv (h : s.Inv) (a : Nat) : (setPC s a).Inv := by
  obtain ⟨-, hI, hstack, hmem⟩ := h
  exact ⟨toNat_ofNat_A12_lt a, hI, hstack, hmem⟩

theorem setI_inv (h : s.Inv) (a : Nat) : (setI s a).Inv := by
  obtain ⟨hpc, -, hstack, hmem⟩ := h
  exact ⟨hpc, toNat_ofNat_A12_lt a, hstack, hmem⟩

theorem skipIf_inv (h : s.Inv) (c : Bool) : (skipIf s c).Inv := by
  cases c with
  | false => exact h
  | true => exact setPC_inv h _

/-- A push of an address keeps every slot an address. -/
theorem push_inv {a : Word} (h : s.Inv) (ha : a.toNat < 4096) (hp : push s a = some t) : t.Inv := by
  obtain ⟨hpc, hI, hstack, hmem⟩ := h
  obtain ⟨hsp, rfl⟩ := push_cases hp
  refine ⟨hpc, hI, fun k => ?_, hmem⟩
  by_cases hk : s.sp.val = k.val
  · simpa [hk] using ha
  · simpa [Vector.getElem_set_ne, hk] using hstack k

theorem pop_inv {a : Word} (h : s.Inv) (hp : pop s = some (a, t)) : t.Inv := by
  obtain ⟨-, -, rfl⟩ := pop_cases hp
  exact h

theorem storeDigits_inv (h : s.Inv) (v : Byte) : (storeDigits s v).Inv := by
  have ⟨_, _, _, hmem⟩ := h
  exact (storeDigits_onlyChanges s v).inv_of_wf h (storeDigits_wf hmem v)

theorem storeBlock_inv (h : s.Inv) (n : Nat) : (storeBlock s n).Inv := by
  have ⟨_, _, _, hmem⟩ := h
  exact (storeBlock_onlyChanges s n).inv_of_wf h (storeBlock_wf hmem n)

theorem loadBlock_inv (h : s.Inv) (n : Nat) : (loadBlock s n).Inv := by
  rw [loadBlock_eq]
  exact h

theorem exec00EE_inv (h : s.Inv) (he : exec00EE s = .next t) : t.Inv := by
  obtain rfl := Host.Outcome.next.inj he
  cases hp : pop s with
  | none => exact h
  | some p => exact setPC_inv (pop_inv h hp) _

theorem exec2nnn_inv {nnn : Addr} (h : s.Inv) (he : exec2nnn nnn s = .next t) : t.Inv := by
  obtain rfl := Host.Outcome.next.inj he
  have ⟨hpc, _⟩ := h
  cases hp : push s s.pc with
  | none => exact h
  | some s1 => exact setPC_inv (push_inv h hpc hp) _

theorem execFx0A_inv {x : Reg} (h : s.Inv) (he : execFx0A x s = .next t) : t.Inv := by
  obtain rfl := Host.Outcome.next.inj he
  cases leastKey s with
  | none => exact setPC_inv h _
  | some k => exact h

theorem exec_inv {i : Instr} (h : s.Inv) (he : exec i s = .next t) : t.Inv := by
  cases i with
  | op00EE => exact exec00EE_inv h he
  | op2nnn nnn => exact exec2nnn_inv h he
  | opFx0A x => exact execFx0A_inv h he
  | op1nnn | opBnnn => obtain rfl := Host.Outcome.next.inj he; exact setPC_inv h _
  | op3xkk | op4xkk | op5xy0 | op9xy0 | opEx9E | opExA1 =>
    obtain rfl := Host.Outcome.next.inj he; exact skipIf_inv h _
  | opAnnn | opFx1E | opFx29 => obtain rfl := Host.Outcome.next.inj he; exact setI_inv h _
  | opFx33 => obtain rfl := Host.Outcome.next.inj he; exact storeDigits_inv h _
  | opFx55 => obtain rfl := Host.Outcome.next.inj he; exact storeBlock_inv h _
  | opFx65 => obtain rfl := Host.Outcome.next.inj he; exact loadBlock_inv h _
  | _ => obtain rfl := Host.Outcome.next.inj he; exact h

theorem fetch_inv (h : s.Inv) : (fetch s).Inv := setPC_inv (s := { s with opcode := _ }) h _

end Invariant

/-- Settles O12, phase by phase: the fetch, the handler or the report of a decode error, and the end of the cycle. -/
theorem everyStepKeepsTheStateInvariant : Obligations.EveryStepKeepsTheStateInvariant := by
  intro s t hs hstep
  obtain ⟨i, u, -, hexec, rfl⟩ | ⟨e, -, rfl⟩ := step_cases hstep
  · have hu : u.Inv := exec_inv (fetch_inv hs) hexec
    exact hu
  · exact fetch_inv hs

/-- Settles O13, by `reset_inv`. -/
theorem resetMeetsTheStateInvariant : Obligations.ResetMeetsTheStateInvariant := reset_inv

/-! ## Other error bits and other inputs

No handler reads `ERR`, three read the keypad and one the random byte. This is said once, for a state in which the error
bits and the scheduled inputs are others: the handler does the same in it. -/

/-- The state with other error bits and other scheduled inputs. -/
def State.withErrInputs (s : State) (e : BitVec 3) (is : List CycleInput) : State := { s with ERR := e, inputs := is }

/-- The instructions that read the keypad (spec/10_state.md R18). -/
def readsKeys : Instr → Bool
  | .opEx9E _ | .opExA1 _ | .opFx0A _ => true
  | _ => false

/-- The instruction that reads the random byte (spec/10_state.md R23). -/
def readsRand : Instr → Bool
  | .opCxkk _ _ => true
  | _ => false

/-- The bit of `ERR` that a handler sets: that of the call on a full stack or of the return on an empty one. -/
def stackEventBits (s : State) : Instr → BitVec 3
  | .op2nnn _ => if s.sp.val = 16 then 2 else 0#3
  | .op00EE => if s.sp.val = 0 then 4 else 0#3
  | _ => 0#3

section OtherErrInputs

variable {s t u : State} {i : Instr} (e : BitVec 3) (is : List CycleInput)

theorem skipIf_withErrInputs (s : State) (c : Bool) :
    skipIf (s.withErrInputs e is) c = (skipIf s c).withErrInputs e is := by
  cases c <;> rfl

theorem storeBlock_withErrInputs (s : State) (n : Nat) :
    storeBlock (s.withErrInputs e is) n = (storeBlock s n).withErrInputs e is := by
  induction n with
  | zero => rfl
  | succ n ih => rw [storeBlock, ih]; rfl

theorem loadBlock_withErrInputs (s : State) (n : Nat) :
    loadBlock (s.withErrInputs e is) n = (loadBlock s n).withErrInputs e is := by
  induction n with
  | zero => rfl
  | succ n ih => rw [loadBlock, ih]; rfl

theorem drawSprite_withErrInputs (s : State) (vx vy : Nat) (c : Canvas) (n : Nat) :
    drawSprite (s.withErrInputs e is) vx vy c n = drawSprite s vx vy c n := by
  induction n with
  | zero => rfl
  | succ n ih => rw [drawSprite, ih]; rfl

theorem exec00EE_withErrInputs (h : exec .op00EE s = .next u) : exec .op00EE (s.withErrInputs e is) =
    .next (u.withErrInputs (e ||| stackEventBits s .op00EE) is) := by
  obtain rfl := Host.Outcome.next.inj h
  by_cases hsp : s.sp.val = 0
  · rw [exec, exec00EE, pop_of_empty (s := s.withErrInputs e is) hsp, pop_of_empty hsp, stackEventBits, if_pos hsp]
    rfl
  · have hpos : 0 < s.sp.val := Nat.pos_of_ne_zero hsp
    rw [exec, exec00EE, pop_of_pos (s := s.withErrInputs e is) hpos, pop_of_pos hpos, stackEventBits, if_neg hsp,
      BitVec.or_zero]
    rfl

theorem exec2nnn_withErrInputs {nnn : Addr} (h : exec (.op2nnn nnn) s = .next u) :
    exec (.op2nnn nnn) (s.withErrInputs e is) =
      .next (u.withErrInputs (e ||| stackEventBits s (.op2nnn nnn)) is) := by
  obtain rfl := Host.Outcome.next.inj h
  by_cases hsp : s.sp.val = 16
  · rw [exec, exec2nnn, push_of_full (s := s.withErrInputs e is) _ hsp, push_of_full _ hsp, stackEventBits, if_pos hsp]
    rfl
  · have hlt : s.sp.val < 16 := by omega
    rw [exec, exec2nnn, push_of_lt (s := s.withErrInputs e is) _ hlt, push_of_lt _ hlt, stackEventBits, if_neg hsp,
      BitVec.or_zero]
    rfl

theorem keyHeld_congr (hkeys : keys t = keys s) (k : Nat) : keyHeld t k = keyHeld s k := by
  rw [keyHeld, keyHeld, hkeys]

theorem leastKey_congr (hkeys : keys t = keys s) : leastKey t = leastKey s := by
  simp only [leastKey, keyHeld_congr hkeys]

/-- A handler does the same with other error bits and other inputs, unless it reads the input that differs; to the other
bits it adds the bit that it adds to the state's own. -/
theorem exec_withErrInputs (h : exec i s = .next u)
    (hkeys : readsKeys i = true → keys (s.withErrInputs e is) = keys s)
    (hrand : readsRand i = true → rand (s.withErrInputs e is) = rand s) :
    exec i (s.withErrInputs e is) = .next (u.withErrInputs (e ||| stackEventBits s i) is) := by
  have hquiet : ∀ {o : Host.Outcome State Fault Refusal} {v : State}, o = .next (v.withErrInputs e is) →
      o = .next (v.withErrInputs (e ||| 0#3) is) := by
    intro o v ho
    rw [ho, BitVec.or_zero]
  cases i with
  | op00EE => exact exec00EE_withErrInputs e is h
  | op2nnn nnn => exact exec2nnn_withErrInputs e is h
  | op3xkk | op4xkk | op5xy0 | op9xy0 =>
    obtain rfl := Host.Outcome.next.inj h
    exact hquiet (congrArg _ (skipIf_withErrInputs e is s _))
  | opEx9E | opExA1 =>
    obtain rfl := Host.Outcome.next.inj h
    rw [← keyHeld_congr (hkeys rfl)]
    exact hquiet (congrArg _ (skipIf_withErrInputs e is s _))
  | opFx0A x =>
    obtain rfl := Host.Outcome.next.inj h
    rw [← leastKey_congr (hkeys rfl)]
    refine hquiet ?_
    rw [exec, execFx0A]
    cases leastKey (s.withErrInputs e is) <;> rfl
  | opCxkk x kk =>
    obtain rfl := Host.Outcome.next.inj h
    rw [← hrand rfl]
    exact hquiet rfl
  | opDxyn x y n =>
    obtain rfl := Host.Outcome.next.inj h
    rw [← drawSprite_withErrInputs e is]
    exact hquiet rfl
  | opFx55 x =>
    obtain rfl := Host.Outcome.next.inj h
    exact hquiet (congrArg _ (storeBlock_withErrInputs e is s _))
  | opFx65 x =>
    obtain rfl := Host.Outcome.next.inj h
    exact hquiet (congrArg _ (loadBlock_withErrInputs e is s _))
  | _ =>
    obtain rfl := Host.Outcome.next.inj h
    exact hquiet rfl

/-! ### The whole step -/

/-- The event of a cycle whose word is an instruction is the stack event of the handler. -/
theorem eventBits_of_decode {w : Word} (hd : decode w = .ok i) : Claims.eventBits s w = stackEventBits s i := by
  have hwf : w.wellFormed ≠ false := fun h => by
    obtain ⟨_, he⟩ := (decodeErrorsAreExactlyTheFourSets.1 w).mpr h
    cases hd.symm.trans he
  obtain ⟨hacc, -⟩ : IsDecoding w (.ok i) := decode_eq_iff.mp hd
  cases i with
  | op2nnn nnn =>
    have hop : w.op = 2 := by rw [← fieldOp_toNat, fieldOp_of_accepts hacc]; rfl
    simp [Claims.eventBits, stackEventBits, hwf, hop]
  | op00EE =>
    obtain ⟨hop, hsub⟩ := fieldOp_fieldSub_of_accepts hacc
    have hop : w.op = 0 := by rw [← fieldOp_toNat, hop]; rfl
    have hlow : w.low = 0xE := by rw [← fieldSub_toNat, hsub]; rfl
    simp [Claims.eventBits, stackEventBits, hwf, hop, hlow]
  | _ =>
    have hcall : w.op ≠ 2 := fun h => by
      obtain ⟨_, hd', -⟩ := encodedNNN_op2nnn w h
      cases hd.symm.trans hd'
    have hreturn : ¬ (w.op = 0 ∧ w.low = 0xE) := fun ⟨hop, hlow⟩ => by
      cases hd.symm.trans (decode_op00EE hop hlow)
    simp [Claims.eventBits, stackEventBits, hwf, hcall, ← and_assoc, hreturn]

theorem eventBits_of_decodeError {w : Word} {err : DecodeError} (hd : decode w = .error err) :
    Claims.eventBits s w = 1 := if_pos ((decodeErrorsAreExactlyTheFourSets.1 w).mp ⟨err, hd⟩)

/-- A step does the same with other error bits and other inputs, unless its instruction reads the input that differs; to
the other bits it adds the bit of the cycle's event. -/
theorem step_withErrInputs (h : step s = .next t)
    (hkeys : ∀ i, decode (Claims.nextWord s) = .ok i → readsKeys i = true → keys (s.withErrInputs e is) = keys s)
    (hrand : ∀ i, decode (Claims.nextWord s) = .ok i → readsRand i = true → rand (s.withErrInputs e is) = rand s) :
    step (s.withErrInputs e is) =
      .next (t.withErrInputs (e ||| Claims.eventBits s (Claims.nextWord s)) is.tail) := by
  obtain ⟨i, u, hd, hexec, rfl⟩ | ⟨err, hd, rfl⟩ := step_cases h
  · have hevent : Claims.eventBits s (Claims.nextWord s) = stackEventBits (fetch s) i := eventBits_of_decode hd
    rw [hevent]
    exact step_of_exec (s := s.withErrInputs e is) hd (exec_withErrInputs e is hexec (hkeys i hd) (hrand i hd))
  · have hevent : Claims.eventBits s (Claims.nextWord s) = 1 := eventBits_of_decodeError hd
    rw [hevent]
    exact step_of_decodeError (s := s.withErrInputs e is) hd

/-- What a step leaves in `ERR` and in the inputs: the rule for the state's own error bits and inputs. -/
theorem step_eq_withErrInputs (h : step s = .next t) :
    t = t.withErrInputs (s.ERR ||| Claims.eventBits s (Claims.nextWord s)) s.inputs.tail :=
  Host.Outcome.next.inj (h.symm.trans
    (step_withErrInputs s.ERR s.inputs h (fun _ _ _ => rfl) (fun _ _ _ => rfl)))

theorem step_ERR (h : step s = .next t) : t.ERR = s.ERR ||| Claims.eventBits s (Claims.nextWord s) :=
  congrArg State.ERR (step_eq_withErrInputs h)

theorem step_inputs (h : step s = .next t) : t.inputs = s.inputs.tail :=
  congrArg State.inputs (step_eq_withErrInputs h)

/-- Two inputs of a cycle lead to the same state where they agree on what the instruction reads of them. -/
theorem step_schedule_congr {c c' : CycleInput}
    (hkeys : ∀ i, decode (Claims.nextWord s) = .ok i → readsKeys i = true → c'.keys = c.keys)
    (hrand : ∀ i, decode (Claims.nextWord s) = .ok i → readsRand i = true → c'.rand = c.rand) :
    step (s.schedule (c :: is)) = step (s.schedule (c' :: is)) := by
  obtain ⟨t, hstep⟩ := everyStateHasANextState (s.schedule (c :: is))
  have hother := step_withErrInputs s.ERR (c' :: is) hstep hkeys hrand
  have hself := step_eq_withErrInputs hstep
  rw [hstep, hself]
  exact hother.symm

end OtherErrInputs

/-- Settles O15: the inputs stay, so that no instruction reads a difference. -/
theorem errorBitsDoNotInfluenceExecution : Obligations.ErrorBitsDoNotInfluenceExecution := by
  intro s t e hstep
  have hother := step_withErrInputs e s.inputs hstep (fun _ _ _ => rfl) (fun _ _ _ => rfl)
  rw [← step_inputs hstep] at hother
  exact ⟨_, hother⟩

/-- Settles O14, by `step_ERR`. -/
theorem errorBitsAreStickyAndSetByEventsOnly : Obligations.ErrorBitsAreStickyAndSetByEventsOnly :=
  fun _ _ => step_ERR

/-- Settles O16: the two inputs agree on the random byte, and the instruction does not read the keypad. -/
theorem onlyThreeInstructionsReadTheKeypad : Obligations.OnlyThreeInstructionsReadTheKeypad := by
  intro s k k' r is h9E hA1 h0A
  refine step_schedule_congr is (fun i hd hreads => ?_) (fun _ _ _ => rfl)
  cases i with
  | opEx9E x => exact absurd hd (h9E x)
  | opExA1 x => exact absurd hd (hA1 x)
  | opFx0A x => exact absurd hd (h0A x)
  | _ => cases hreads

/-- Settles O17: the two inputs agree on the keypad, and the instruction does not read the random byte. -/
theorem onlyCxkkReadsTheRandomByte : Obligations.OnlyCxkkReadsTheRandomByte := by
  intro s k r r' is hC
  refine step_schedule_congr is (fun _ _ _ => rfl) (fun i hd hreads => ?_)
  cases i with
  | opCxkk x kk => exact absurd hd (hC x kk)
  | _ => cases hreads

end Sys2Proof.Machine

/-! Control transfers and the keypad (spec/41_control_flow.md, spec/45_keypad_timers.md sections 1 and 2): the offset jump,
the return, the call and the return that are not performed, the skips and the key wait. The statements O21, O24, O23, O25,
O27, O28 and O46. -/

namespace Sys2Proof

theorem encodedNNN_opBnnn : Claims.EncodedNNN 0xB .opBnnn :=
  encodedNNN_of_isDecoding (by decide) fun _ hop => ⟨accepts_of_fieldOp hop rfl rfl, rfl⟩

theorem encodedXKK_op3xkk : Claims.EncodedXKK 0x3 .op3xkk :=
  encodedXKK_of_isDecoding fun _ hop => ⟨accepts_of_fieldOp hop rfl rfl, rfl⟩

theorem encodedXKK_op4xkk : Claims.EncodedXKK 0x4 .op4xkk :=
  encodedXKK_of_isDecoding fun _ hop => ⟨accepts_of_fieldOp hop rfl rfl, rfl⟩

/-- A row selected by the top nibble alone, with the operands `x` and `y`, is an encoding in format XYN whatever the low
nibble. -/
theorem encodedXY_of_isDecoding {n : Nat} {f : Reg → Reg → Instr}
    (hrow : ∀ w, fieldOp w = BitVec.ofNat 4 n → IsDecoding w (.ok (f (fieldX w) (fieldY w)))) : Claims.EncodedXY n f :=
  fun w hop => ⟨fieldX w, fieldY w, decode_eq_iff.mpr (hrow w (fieldOp_eq_of_op hop)), fieldX_val w, fieldY_val w⟩

theorem encodedXY_op5xy0 : Claims.EncodedXY 0x5 .op5xy0 :=
  encodedXY_of_isDecoding fun _ hop => ⟨accepts_of_fieldOp hop rfl rfl, rfl⟩

theorem encodedXY_op9xy0 : Claims.EncodedXY 0x9 .op9xy0 :=
  encodedXY_of_isDecoding fun _ hop => ⟨accepts_of_fieldOp hop rfl rfl, rfl⟩

/-- A row of family E is selected by the low nibble. -/
theorem encodedX_of_isDecoding {low : Nat} {f : Reg → Instr}
    (hrow : ∀ w, fieldOp w = 0xE → fieldSub w = BitVec.ofNat 4 low → IsDecoding w (.ok (f (fieldX w)))) :
    Claims.EncodedX low f :=
  fun w hop hlow => ⟨fieldX w,
    decode_eq_iff.mpr (hrow w (fieldOp_eq_of_op hop) (fieldSub_eq_of_low hlow)), fieldX_val w⟩

theorem encodedX_opEx9E : Claims.EncodedX 0xE .opEx9E :=
  encodedX_of_isDecoding fun _ hop hsub => ⟨accepts_of_fieldOp_fieldSub hop hsub rfl rfl, rfl⟩

theorem encodedX_opExA1 : Claims.EncodedX 0x1 .opExA1 :=
  encodedX_of_isDecoding fun _ hop hsub => ⟨accepts_of_fieldOp_fieldSub hop hsub rfl rfl, rfl⟩

theorem encodedXS_opFx0A : Claims.EncodedXS 0x0A .opFx0A :=
  encodedXS_of_decodeFamilyF (by decide) fun w h => by simp [decodeFamilyF, h]

end Sys2Proof

namespace Sys2Proof.Machine

/-! ## Jump, call and return -/

/-- Settles O21: the row of the top nibble B, and the one write of the handler. -/
theorem offsetJumpAddsRegisterZero : Obligations.OffsetJumpAddsRegisterZero :=
  ⟨encodedNNN_opBnnn, fun s _ => ⟨_, rfl, setPC_toNat s _, setPC_onlyChanges s _⟩⟩

/-- Settles O24: the pop from the stack, then the write of `pc`, each with its frame. -/
theorem returnTakesTheLastReturnAddress : Obligations.ReturnTakesTheLastReturnAddress := by
  refine ⟨fun _ => decode_op00EE, fun s h => ?_⟩
  have hpop := pop_of_pos h
  exact ⟨_, exec_op00EE_of_pop hpop, rfl, setPC_toNat _ _,
    ((pop_onlyChanges hpop).mono (by simp)).trans ((setPC_onlyChanges _ _).mono (by simp))⟩

/-- Settles O23: where the push finds no slot, the handler raises `SOVF`. -/
theorem callOnAFullStackOnlyReports : Obligations.CallOnAFullStackOnlyReports := by
  intro s nnn hfull
  have hexec : exec (.op2nnn nnn) s = .next (raise .sovf s) := by rw [exec, exec2nnn, push_of_full _ hfull]
  exact ⟨_, hexec, fun k _ => raise_getLsbD .sovf s k, raise_onlyChanges s .sovf⟩

/-- Settles O25: where the pop finds no entry, the handler raises `SUNF`. -/
theorem returnOnAnEmptyStackOnlyReports : Obligations.ReturnOnAnEmptyStackOnlyReports := by
  intro s hempty
  have hexec : exec .op00EE s = .next (raise .sunf s) := by rw [exec, exec00EE, pop_of_empty hempty]
  exact ⟨_, hexec, fun k _ => raise_getLsbD .sunf s k, raise_onlyChanges s .sunf⟩

/-! ## Skips -/

section Skips

variable {s : State} {o : Host.Outcome State Fault Refusal} {c : Bool} {p : Prop} [Decidable p]

/-- A handler that skips where `p` holds adds 2 to `pc` there, and does nothing else. -/
theorem skip_if (ho : o = .next (skipIf s c)) (hc : c = true ↔ p) : ∃ t, o = .next t ∧ OnlyChanges [.pc] s t ∧
    t.pc.toNat = if p then (s.pc.toNat + 2) % 4096 else s.pc.toNat := by
  refine ⟨_, ho, skipIf_onlyChanges s c, ?_⟩
  rw [skipIf_toNat]
  exact if_congr hc rfl rfl

/-- A handler that skips where `p` fails. -/
theorem skip_if_not (ho : o = .next (skipIf s c)) (hc : c = true ↔ ¬ p) : ∃ t, o = .next t ∧ OnlyChanges [.pc] s t ∧
    t.pc.toNat = if p then s.pc.toNat else (s.pc.toNat + 2) % 4096 := by
  rw [← ite_not]
  exact skip_if ho hc

end Skips

theorem byte_beq_iff_toNat (a b : Byte) : (a == b) = true ↔ a.toNat = b.toNat := by
  rw [beq_iff_eq, BitVec.toNat_inj]

theorem byte_bne_iff_toNat (a b : Byte) : (a != b) = true ↔ ¬ a.toNat = b.toNat := by
  rw [bne_iff_ne, ne_eq, BitVec.toNat_inj]

/-- Settles O27: the four rows, and the condition of each skip as a comparison of numbers. -/
theorem registerSkipsAddTwoWhenTheConditionHolds : Obligations.RegisterSkipsAddTwoWhenTheConditionHolds := by
  refine ⟨encodedXKK_op3xkk, encodedXKK_op4xkk, encodedXY_op5xy0, encodedXY_op9xy0, fun s x y kk => ⟨?_, ?_, ?_, ?_⟩⟩
  · exact skip_if rfl (byte_beq_iff_toNat (reg s x) kk)
  · exact skip_if_not rfl (byte_bne_iff_toNat (reg s x) kk)
  · exact skip_if rfl (byte_beq_iff_toNat (reg s x) (reg s y))
  · exact skip_if_not rfl (byte_bne_iff_toNat (reg s x) (reg s y))

/-! ## The keypad -/

/-- The scheduled input is the one that the cycle sees (log 1). -/
theorem keys_schedule (s : State) (i : CycleInput) (is : List CycleInput) : keys (s.schedule (i :: is)) = i.keys := rfl

theorem keyHeld_eq_testBit (s : State) (k : Nat) : keyHeld s k = (keys s).toNat.testBit (k % 16) := rfl

/-- Settles O28: the two rows of family E, and the condition of each skip as a bit of the level. -/
theorem keySkipsTestTheLevelOfTheKey : Obligations.KeySkipsTestTheLevelOfTheKey := by
  refine ⟨encodedX_opEx9E, encodedX_opExA1, keys_schedule, fun s x => ⟨?_, ?_⟩⟩
  · exact skip_if rfl Iff.rfl
  · exact skip_if_not rfl (by rw [keyHeld_eq_testBit, Bool.not_eq_true', Bool.not_eq_true])

/-- No key is found exactly where the level is 0. -/
theorem leastKey_eq_none_iff {s : State} : leastKey s = none ↔ keys s = 0 := by
  rw [leastKey, List.find?_eq_none]
  constructor
  · intro h
    refine BitVec.eq_of_getLsbD_eq fun k hk => ?_
    have hk' := h ⟨k, hk⟩ (List.mem_finRange _)
    simpa [keyHeld, Nat.mod_eq_of_lt hk] using hk'
  · intro h k _
    simp [keyHeld, h]

/-- The key that is found is held, and none below it is (the spec's D9, log 14). -/
theorem leastKey_eq_some {s : State} {k : Fin 16} (h : leastKey s = some k) :
    (keys s).toNat.testBit k.val = true ∧ ∀ j, j < k.val → (keys s).toNat.testBit j = false := by
  rw [leastKey, List.find?_eq_some_iff_getElem] at h
  obtain ⟨hheld, i, hi, hik, hbelow⟩ := h
  have hi' : k.val = i := by simp [← hik]
  rw [keyHeld_eq_testBit, Nat.mod_eq_of_lt k.isLt] at hheld
  refine ⟨hheld, fun j hj => ?_⟩
  have hj' := hbelow j (hi' ▸ hj)
  rw [List.getElem_finRange, Bool.not_eq_true', keyHeld_eq_testBit] at hj'
  simpa [Nat.mod_eq_of_lt (hj.trans k.isLt)] using hj'

theorem exec_opFx0A_of_some {s : State} {k : Fin 16} (x : Reg) (h : leastKey s = some k) :
    exec (.opFx0A x) s = .next (setReg s x (BitVec.ofNat 8 k.val)) := by
  rw [exec, execFx0A, h]

theorem exec_opFx0A_of_none {s : State} (x : Reg) (h : leastKey s = none) :
    exec (.opFx0A x) s = .next (rewind s) := by
  rw [exec, execFx0A, h]

/-- Settles O46: the level is not 0, so a key is found; its number fits in the register. -/
theorem keyWaitTakesTheLeastHeldKey : Obligations.KeyWaitTakesTheLeastHeldKey := by
  refine ⟨encodedXS_opFx0A, keys_schedule, fun s x hkeys => ?_⟩
  obtain ⟨k, hk⟩ := Option.ne_none_iff_exists'.mp (mt leastKey_eq_none_iff.mp hkeys)
  obtain ⟨hheld, hbelow⟩ := leastKey_eq_some hk
  refine ⟨_, k, exec_opFx0A_of_some x hk, k.isLt, hheld, hbelow, ?_, setReg_onlyChangesRegs s x _,
    setReg_onlyChanges s x _⟩
  rw [reg_setReg_self, BitVec.toNat_ofNat]
  omega

end Sys2Proof.Machine

/-! The index register and memory (spec/43_index_memory.md), and the rest of the arithmetic: the statements O38 to O42, O19,
O35 and O36. -/

namespace Sys2Proof

theorem encodedXKK_opCxkk : Claims.EncodedXKK 0xC .opCxkk :=
  encodedXKK_of_isDecoding fun _ hop => ⟨accepts_of_fieldOp hop rfl rfl, rfl⟩

theorem encodedXS_opFx1E : Claims.EncodedXS 0x1E .opFx1E :=
  encodedXS_of_decodeFamilyF (by decide) fun w h => by simp [decodeFamilyF, h]

theorem encodedXS_opFx33 : Claims.EncodedXS 0x33 .opFx33 :=
  encodedXS_of_decodeFamilyF (by decide) fun w h => by simp [decodeFamilyF, h]

theorem encodedXS_opFx55 : Claims.EncodedXS 0x55 .opFx55 :=
  encodedXS_of_decodeFamilyF (by decide) fun w h => by simp [decodeFamilyF, h]

theorem encodedXS_opFx65 : Claims.EncodedXS 0x65 .opFx65 :=
  encodedXS_of_decodeFamilyF (by decide) fun w h => by simp [decodeFamilyF, h]

end Sys2Proof

namespace Sys2Proof.Machine

/-! ## Register 15 as an operand, and the random byte -/

/-- Settles O35: flag and result are those of the values from before the two writes, `VF` among them. -/
theorem oldFlagIsTheOperandInRegister15 : Obligations.OldFlagIsTheOperandInRegister15 := by
  refine fun s x hx => ⟨?_, ?_, ?_⟩
  · exact result_and_flag_written rfl hx (BitVec.toNat_add (reg s x) (reg s VF)) (carry_toNat (reg s x) (reg s VF))
  · exact result_and_flag_written rfl hx (byte_sub_toNat (reg s x) (reg s VF)) (greater_toNat (reg s x) (reg s VF))
  · exact result_and_flag_written rfl hx (byte_sub_toNat (reg s VF) (reg s x)) (greater_toNat (reg s VF) (reg s x))

/-- Settles O36: the one write of the handler, of a conjunction that acts on each bit by itself. -/
theorem randomByteIsMaskedByTheImmediate : Obligations.RandomByteIsMaskedByTheImmediate := by
  refine ⟨encodedXKK_opCxkk, fun _ _ _ => rfl, fun s x kk =>
    ⟨_, rfl, fun j => ?_, setReg_onlyChangesRegs s x _, setReg_onlyChanges s x _⟩⟩
  rw [reg_setReg_self, BitVec.toNat_and, Nat.testBit_and]

/-- Settles O38: the row, and the one write of the handler. -/
theorem indexAddWrapsWithoutFlag : Obligations.IndexAddWrapsWithoutFlag :=
  ⟨encodedXS_opFx1E, fun s _ => ⟨_, rfl, setI_toNat s _, setI_onlyChanges s _⟩⟩

/-! ## Stores through `I` -/

section Stores

variable {s : State}

/-- What memory reads after `Fx33`. -/
theorem readByte_storeDigits (h : s.mem.wf = true) (v : Byte) (a : Nat) : readByte (storeDigits s v) a =
    if a % 4096 = (s.I.toNat + 2) % 4096 then ones v else if a % 4096 = (s.I.toNat + 1) % 4096 then tens v
    else if a % 4096 = s.I.toNat % 4096 then hundreds v else readByte s a := by
  rw [storeDigits, readByte_writeByte (writeByte_wf (writeByte_wf h _ _) _ _), readByte_writeByte (writeByte_wf h _ _),
    readByte_writeByte h]
  simp only [effectiveAddress_eq, Nat.mod_mod, Nat.add_zero]

theorem digit_toNat {d : Nat} (hd : d < 10) : (BitVec.ofNat 8 d).toNat = d := by
  rw [BitVec.toNat_ofNat]
  omega

theorem hundreds_toNat (v : Byte) : (hundreds v).toNat = v.toNat / 100 := digit_toNat (by omega)

theorem tens_toNat (v : Byte) : (tens v).toNat = v.toNat / 10 % 10 := digit_toNat (by omega)

theorem ones_toNat (v : Byte) : (ones v).toNat = v.toNat % 10 := digit_toNat (by omega)

/-- Up to 4096 bytes of a block store lie at addresses of their own, and each reads back. -/
theorem readByte_storeBlock (h : s.mem.wf = true) {n i : Nat} (hn : n ≤ 4096) (hi : i < n) :
    readByte (storeBlock s n) ((s.I.toNat + i) % 4096) = reg s (blockReg i) := by
  induction n with
  | zero => cases hi
  | succ n ih =>
    rw [storeBlock, readByte_writeByte (storeBlock_wf h n), effectiveAddress_eq, Nat.mod_mod, Nat.mod_mod]
    obtain hlt | rfl := Nat.lt_succ_iff_lt_or_eq.mp hi
    · rw [if_neg (by omega), ih (by omega) hlt]
    · rw [if_pos rfl]

/-- A block load of `n` registers fills those below `n`. -/
theorem reg_loadBlock {n : Nat} (hn : n ≤ 16) {r : Reg} (hr : r.val < n) :
    reg (loadBlock s n) r = readByte s ((s.I.toNat + r.val) % 4096) := by
  induction n with
  | zero => cases hr
  | succ n ih =>
    have hblock : r = blockReg n ↔ r.val = n := by
      rw [Fin.ext_iff, blockReg, Fin.val_ofNat, Nat.mod_eq_of_lt hn]
    rw [loadBlock, reg_setReg]
    obtain hlt | heq := Nat.lt_succ_iff_lt_or_eq.mp hr
    · rw [if_neg (mt hblock.mp hlt.ne), ih (by omega) hlt]
    · rw [if_pos (hblock.mpr heq), heq, effectiveAddress_eq]

theorem blockReg_val (r : Reg) : blockReg r.val = r := Fin.ofNat_val_eq_self r

end Stores

/-- Settles O39: the three addresses differ, so each digit stays where it was written. -/
theorem digitsAreStoredHundredsFirst : Obligations.DigitsAreStoredHundredsFirst := by
  refine ⟨encodedXS_opFx33, fun s x h => ⟨_, rfl, ?_, ?_, ?_, fun a ha hne => ?_, storeDigits_onlyChanges s _⟩⟩
  · rw [readByte_storeDigits h, if_neg (by omega), if_neg (by omega), if_pos (Nat.mod_mod _ _), hundreds_toNat]
  · rw [readByte_storeDigits h, if_neg (by omega), if_pos (Nat.mod_mod _ _), tens_toNat]
  · rw [readByte_storeDigits h, if_pos (Nat.mod_mod _ _), ones_toNat]
  · exact readByte_storeDigits_of_ne s _ fun i hi => by rw [Nat.mod_eq_of_lt ha]; exact hne i hi

/-- Settles O40: the `x + 1` bytes read back, and every other address is left alone. -/
theorem blockStoreWritesTheRegistersInOrder : Obligations.BlockStoreWritesTheRegistersInOrder := by
  refine ⟨encodedXS_opFx55, fun s x h => ⟨_, rfl, fun r hr => ?_, fun a ha hne => ?_, storeBlock_onlyChanges s _⟩⟩
  · rw [readByte_storeBlock h (by omega) (Nat.lt_succ_of_le hr), blockReg_val]
  · refine readByte_storeBlock_of_ne s fun i hi => ?_
    rw [Nat.mod_eq_of_lt ha]
    exact hne i (Nat.le_of_lt_succ hi)

/-- Settles O41: the `x + 1` registers are filled, and those above them left alone. -/
theorem blockLoadReadsTheRegistersInOrder : Obligations.BlockLoadReadsTheRegistersInOrder :=
  ⟨encodedXS_opFx65, fun s x => ⟨_, rfl, fun _ hr => reg_loadBlock x.isLt (Nat.lt_succ_of_le hr),
    fun _ hr => reg_loadBlock_of_le s hr, loadBlock_onlyChanges s _⟩⟩

/-- Settles O42: the load reads the bytes of the store, because `I` and memory are those that the store left. -/
theorem blockStoreThenBlockLoadRestores : Obligations.BlockStoreThenBlockLoadRestores := by
  intro s t u x hwf hstore hmem hI
  obtain ⟨-, hstores⟩ := blockStoreWritesTheRegistersInOrder
  obtain ⟨-, hloads⟩ := blockLoadReadsTheRegistersInOrder
  obtain ⟨t', hstore', hbytes, -, hframe⟩ := hstores s x hwf
  obtain rfl : t' = t := Host.Outcome.next.inj (hstore'.symm.trans hstore)
  obtain ⟨v, hload, hregs, -, hframe'⟩ := hloads u x
  have hIv : v.I = u.I := hframe' .I (by decide)
  refine ⟨v, hload, fun r hr => ?_, hframe .I (by decide), hIv.trans hI⟩
  rw [hregs r hr, hI, readByte_congr hmem, hbytes r hr]

/-! ## The canonical form of memory -/

section Canonical

variable {lo a : Nat} {v : Byte} {m m' : Memory}

theorem Memory.wfFrom_cons_iff : Memory.wfFrom lo ((a, v) :: m) = true ↔
    lo ≤ a ∧ a < 4096 ∧ v ≠ Memory.initial a ∧ Memory.wfFrom (a + 1) m = true := by
  simp only [Memory.wfFrom, Bool.and_eq_true, decide_eq_true_eq, and_assoc]

/-- A listed byte differs from its reset content, and a memory whose cells all lie above it reads that content. -/
theorem Memory.read_front_ne (h : Memory.wfFrom lo ((a, v) :: m) = true) (h' : Memory.wfFrom (a + 1) m' = true) :
    Memory.read ((a, v) :: m) a ≠ m'.read a := by
  obtain ⟨-, -, hv, -⟩ := Memory.wfFrom_cons_iff.mp h
  rw [Memory.read_cons, if_pos rfl, Memory.read_below h' (Nat.lt_succ_self a)]
  exact hv

/-- From address `lo` up, canonical memories that read alike are equal: the cell in front of one is in front of the other,
and the rests read alike. -/
theorem Memory.eq_of_read_eq (h : Memory.wfFrom lo m = true) (h' : Memory.wfFrom lo m' = true)
    (hread : ∀ a, a < 4096 → m.read a = m'.read a) : m = m' := by
  induction m generalizing lo m' with
  | nil =>
    cases m' with
    | nil => rfl
    | cons c' m' =>
      obtain ⟨-, ha', -⟩ := Memory.wfFrom_cons_iff.mp h'
      exact absurd (hread _ ha').symm (Memory.read_front_ne h' rfl)
  | cons c m ih =>
    obtain ⟨a, v⟩ := c
    obtain ⟨hlo, ha, hv, hm⟩ := Memory.wfFrom_cons_iff.mp h
    cases m' with
    | nil => exact absurd (hread a ha) (Memory.read_front_ne h rfl)
    | cons c' m' =>
      obtain ⟨a', v'⟩ := c'
      obtain ⟨hlo', ha', hv', hm'⟩ := Memory.wfFrom_cons_iff.mp h'
      obtain hlt | rfl | hgt := Nat.lt_trichotomy a a'
      · exact absurd (hread a ha) (Memory.read_front_ne h (Memory.wfFrom_cons_iff.mpr ⟨hlt, ha', hv', hm'⟩))
      · have hvv' : v = v' := by simpa [Memory.read_cons] using hread a ha
        have hrest : ∀ b, b < 4096 → Memory.read m b = Memory.read m' b := fun b hb => by
          by_cases hab : a = b
          · subst hab
            rw [Memory.read_below hm (Nat.lt_succ_self a), Memory.read_below hm' (Nat.lt_succ_self a)]
          · simpa [Memory.read_cons, hab] using hread b hb
        rw [hvv', ih hm hm' hrest]
      · exact absurd (hread a' ha').symm (Memory.read_front_ne h' (Memory.wfFrom_cons_iff.mpr ⟨hgt, ha, hv, hm⟩))

end Canonical

/-- Settles O19, from address 0 up. -/
theorem canonicalMemoriesThatReadAlikeAreEqual : Obligations.CanonicalMemoriesThatReadAlikeAreEqual :=
  fun _ _ => Memory.eq_of_read_eq

end Sys2Proof.Machine

/-! The whole cycle, and reset: what a cycle does to `pc`, the timers and the rest, from the handler's own effect and the
frames of fetch and end. The statements O7, O10, O9 and O47; then O1 and O49. -/

namespace Sys2Proof.Machine

/-! ## A decode error -/

/-- Settles O7, phase by phase: fetch, report, end of the cycle. -/
theorem decodeErrorCycleOnlyReports : Obligations.DecodeErrorCycleOnlyReports := by
  intro s e hd
  have hframe : OnlyChanges [.opcode, .pc, .ERR, .DT, .ST, .inputs, .cycle] s (endCycle (decodeError (fetch s))) :=
    (((fetch_onlyChanges s).mono (by simp)).trans ((raise_onlyChanges (fetch s) .dec).mono (by simp))).trans
      ((endCycle_onlyChanges _).mono (by simp))
  exact ⟨_, step_of_decodeError hd, rfl, fetch_pc_toNat s, fun k _ => raise_getLsbD .dec (fetch s) k,
    countDown_toNat s.DT, countDown_toNat s.ST, rfl, rfl, hframe⟩

/-! ## The timers -/

section Timers

variable {s u : State} {i : Instr}

/-- Only `Fx15` writes `DT` (spec/10_state.md R17). -/
theorem exec_DT (h : exec i s = .next u) (hi : ∀ x, i ≠ .opFx15 x) : u.DT = s.DT := by
  refine exec_onlyChanges h .DT ?_
  cases i with
  | opFx15 x => exact absurd rfl (hi x)
  | _ => simp [Claims.stateWritten]

/-- Only `Fx18` writes `ST` (spec/10_state.md R17). -/
theorem exec_ST (h : exec i s = .next u) (hi : ∀ x, i ≠ .opFx18 x) : u.ST = s.ST := by
  refine exec_onlyChanges h .ST ?_
  cases i with
  | opFx18 x => exact absurd rfl (hi x)
  | _ => simp [Claims.stateWritten]

end Timers

/-- Settles O10: the tick counts down what the handler left, which is its own write in `Fx15` and `Fx18` and the old value
elsewhere. -/
theorem timersTickInEveryCycle : Obligations.TimersTickInEveryCycle := by
  intro s t hstep
  obtain ⟨i, u, hd, hexec, rfl⟩ | ⟨e, hd, rfl⟩ := step_cases hstep
  · have hd : decode (Claims.nextWord s) = .ok i := hd
    rw [hd, endCycle_DT, endCycle_ST, countDown_toNat, countDown_toNat]
    refine ⟨fun hi => ?_, fun hi => ?_, fun x hi => ?_, fun x hi => ?_⟩
    · rw [exec_DT hexec fun x hx => hi x (congrArg _ hx), fetch_DT]
    · rw [exec_ST hexec fun x hx => hi x (congrArg _ hx), fetch_ST]
    · obtain rfl := Except.ok.inj hi
      obtain rfl := Host.Outcome.next.inj hexec
      rfl
    · obtain rfl := Except.ok.inj hi
      obtain rfl := Host.Outcome.next.inj hexec
      rfl
  · have hd : decode (Claims.nextWord s) = .error e := hd
    rw [hd]
    exact ⟨fun _ => countDown_toNat s.DT, fun _ => countDown_toNat s.ST, nofun, nofun⟩

/-! ## The program counter -/

section ProgramCounter

variable {s u : State}

theorem exec_pc {i : Instr} (h : exec i (fetch s) = .next u) (hi : Field.pc ∉ Claims.stateWritten i) :
    u.pc.toNat = (s.pc.toNat + 2) % 4096 := by
  have hpc : u.pc = (fetch s).pc := exec_onlyChanges h .pc hi
  rw [hpc, fetch_pc_toNat]

/-- A skip after the fetch, relative to the address of the instruction. -/
theorem skipIf_fetch_toNat (s : State) (c : Bool) :
    (skipIf (fetch s) c).pc.toNat = (s.pc.toNat + if c then 4 else 2) % 4096 := by
  rw [skipIf_toNat, fetch_pc_toNat]
  cases c with
  | false => rfl
  | true => exact Nat.mod_add_mod _ _ _

/-- A rewind after the fetch is back at the address of the instruction. -/
theorem rewind_fetch_toNat (s : State) : (rewind (fetch s)).pc.toNat = s.pc.toNat % 4096 := by
  rw [rewind_toNat, fetch_pc_toNat]
  omega

theorem exec00EE_fetch_pc (h : exec .op00EE (fetch s) = .next u) : u.pc.toNat = Claims.pcAfter s .op00EE := by
  rw [Claims.pcAfter]
  by_cases hsp : 0 < s.sp.val
  · rw [exec_op00EE_of_pop (pop_of_pos (s := fetch s) hsp)] at h
    obtain rfl := Host.Outcome.next.inj h
    rw [dif_pos hsp, setPC_toNat]
    rfl
  · rw [exec, exec00EE, pop_of_empty (s := fetch s) (Nat.eq_zero_of_not_pos hsp)] at h
    obtain rfl := Host.Outcome.next.inj h
    rw [dif_neg hsp, raise_pc, fetch_pc_toNat]

theorem exec2nnn_fetch_pc {nnn : Addr} (h : exec (.op2nnn nnn) (fetch s) = .next u) :
    u.pc.toNat = Claims.pcAfter s (.op2nnn nnn) := by
  rw [Claims.pcAfter]
  by_cases hsp : s.sp.val = 16
  · rw [exec, exec2nnn, push_of_full (s := fetch s) _ hsp] at h
    obtain rfl := Host.Outcome.next.inj h
    rw [if_pos hsp, raise_pc, fetch_pc_toNat]
  · have hfree : (fetch s).sp.val < 16 := by have := s.sp.isLt; rw [fetch_sp]; omega
    rw [exec_op2nnn_of_push nnn (push_of_lt (fetch s).pc hfree)] at h
    obtain rfl := Host.Outcome.next.inj h
    rw [if_neg hsp, setPC_addr_toNat]

theorem execFx0A_fetch_pc {x : Reg} (h : exec (.opFx0A x) (fetch s) = .next u) :
    u.pc.toNat = Claims.pcAfter s (.opFx0A x) := by
  rw [Claims.pcAfter]
  have hkeys : leastKey (fetch s) = none ↔ keys s = 0 := leastKey_eq_none_iff
  cases hleast : leastKey (fetch s) with
  | none =>
    rw [exec_opFx0A_of_none x hleast] at h
    obtain rfl := Host.Outcome.next.inj h
    rw [rewind_fetch_toNat, if_pos (hkeys.mp hleast)]
    rfl
  | some k =>
    rw [exec_opFx0A_of_some x hleast] at h
    obtain rfl := Host.Outcome.next.inj h
    rw [setReg_pc, fetch_pc_toNat, if_neg (mt hkeys.mpr (by simp [hleast]))]

/-- The handler on the state after the fetch leaves the `pc` of the table (spec/40_cycle.md R69). -/
theorem exec_fetch_pc {i : Instr} (h : exec i (fetch s) = .next u) : u.pc.toNat = Claims.pcAfter s i := by
  cases i with
  | op00EE => exact exec00EE_fetch_pc h
  | op2nnn nnn => exact exec2nnn_fetch_pc h
  | opFx0A x => exact execFx0A_fetch_pc h
  | op1nnn nnn => obtain rfl := Host.Outcome.next.inj h; exact setPC_addr_toNat (fetch s) nnn
  | opBnnn nnn => obtain rfl := Host.Outcome.next.inj h; exact setPC_toNat (fetch s) _
  | op3xkk | op5xy0 =>
    obtain rfl := Host.Outcome.next.inj h
    rw [skipIf_fetch_toNat, Claims.pcAfter]
    simp only [beq_iff_eq]
    rfl
  | op4xkk | op9xy0 =>
    obtain rfl := Host.Outcome.next.inj h
    rw [skipIf_fetch_toNat, Claims.pcAfter]
    simp only [bne_iff_ne, ite_not, ne_eq]
    rfl
  | opEx9E x => obtain rfl := Host.Outcome.next.inj h; exact skipIf_fetch_toNat s _
  | opExA1 x =>
    obtain rfl := Host.Outcome.next.inj h
    rw [skipIf_fetch_toNat, Claims.pcAfter]
    simp only [Bool.not_eq_true', ← Bool.not_eq_true, ite_not]
    rfl
  | _ => exact exec_pc h (by simp [Claims.stateWritten])

end ProgramCounter

/-- Settles O9: the end of the cycle leaves `pc` alone, and a decode error leaves it where the fetch put it. -/
theorem pcAfterTheCycleFollowsTheTable : Obligations.PcAfterTheCycleFollowsTheTable := by
  refine ⟨fun s t i hd hstep => ?_, fun s t e hd hstep => ?_⟩
  · obtain ⟨u, hexec⟩ := exists_exec_eq_next i (fetch s)
    have hpc : u.pc.toNat = Claims.pcAfter s i := exec_fetch_pc hexec
    obtain rfl := Host.Outcome.next.inj ((step_of_exec hd hexec).symm.trans hstep)
    exact hpc
  · obtain rfl := Host.Outcome.next.inj ((step_of_decodeError hd).symm.trans hstep)
    exact fetch_pc_toNat s

/-! ## The key wait -/

/-- Settles O47: the rewind puts back the `pc` that the fetch advanced, so `pc` leaves the frame of the whole cycle, and with
`pc` and memory the same the next word is the same. -/
theorem keyWaitRepeatsWhileNoKeyIsHeld : Obligations.KeyWaitRepeatsWhileNoKeyIsHeld := by
  intro s x hlt hd hkeys
  have hexec : exec (.opFx0A x) (fetch s) = .next (rewind (fetch s)) :=
    exec_opFx0A_of_none x (leastKey_eq_none_iff.mpr hkeys)
  have hpc : (endCycle (rewind (fetch s))).pc = s.pc :=
    BitVec.eq_of_toNat_eq ((rewind_fetch_toNat s).trans (Nat.mod_eq_of_lt hlt))
  have hcycle : OnlyChanges [.pc, .opcode, .DT, .ST, .inputs, .cycle] s (endCycle (rewind (fetch s))) :=
    (((fetch_onlyChanges s).mono (by simp)).trans ((rewind_onlyChanges _).mono (by simp))).trans
      ((endCycle_onlyChanges _).mono (by simp))
  have hframe := hcycle.of_same hpc
  exact ⟨_, step_of_exec hd hexec, hpc, rfl, hframe.nextWord (by decide) (by decide), countDown_toNat s.DT,
    countDown_toNat s.ST, hframe⟩

/-! ## Words written out, and reset -/

/-- Settles O1, word by word. -/
theorem wordsWrittenOutFromThePatternsDecode : Obligations.WordsWrittenOutFromThePatternsDecode := by
  unfold Obligations.WordsWrittenOutFromThePatternsDecode
  decide

/-- The model's font is the customary one, digit by digit (log 5). -/
theorem initial_glyph : ∀ (d : Fin 16) (j : Fin 5),
    (Memory.initial (0x050 + 5 * d.val + j.val)).toNat = (Claims.customaryGlyph d.val).getD j.val 0 := by
  decide

/-- Settles O49: the fields as reset writes them, and memory without a listed byte. -/
theorem resetLeavesPcAt0x200FontAndZeros : Obligations.ResetLeavesPcAt0x200FontAndZeros := by
  refine ⟨rfl, fun r => ?_, rfl, rfl, fun k => ?_, rfl, rfl, fun r c => ?_, rfl, rfl, fun d j => ?_,
    fun a ha hfont => ?_, rfl, rfl⟩
  · simp [reg, State.reset]
  · simp [State.reset]
  · exact clearDisplay_cell r c
  · rw [readByte, A12_of_lt (by omega)]
    exact initial_glyph d j
  · rw [readByte_reset_of_not_font ha hfont]
    rfl

end Sys2Proof.Machine
